-- ==== Sys2Proof/Word.lean ====
section
/-! DEFINITION. The register index, the instruction word and the range of a data value (R9, R20, R21, R82).

A data value (a register, a memory word, `Vj`, `Vk`, `A`, a ROB value or address) is an `Int`: the signed integer that its
`XLEN`-bit two's-complement word denotes (R9). Every operation that could leave the `XLEN`-bit range ends in `wrap`; that
every data value lies in the range is the invariant `Machine.DataInRange`. The type is written `Int`, without a name of
its own, because Lean's integer procedures read an abbreviation of it as an unknown type. -/

namespace Sys2Proof

/-- One word of the program store: `ILEN` = 32 bits (R82). -/
abbrev InstrWord := BitVec 32

/-- The index i of register Fi, 0 to 31 (R21, R86). A number above 31 is not expressible (D23). -/
abbrev RegIdx := Fin 32

/-- `INT_MIN` = -2^(XLEN-1) (R9). -/
def intMin (xlen : Nat) : Int := -((2 ^ (xlen - 1) : Nat) : Int)

/-- `INT_MAX` = 2^(XLEN-1) - 1 (R9). -/
def intMax (xlen : Nat) : Int := ((2 ^ (xlen - 1) : Nat) : Int) - 1

/-- `v` is representable in `xlen` bits of two's complement (R9). -/
abbrev InRange (xlen : Nat) (v : Int) : Prop := intMin xlen ≤ v ∧ v ≤ intMax xlen

end Sys2Proof
end

