-- ==== Sys2Proof/Syntax.lean ====
section
/-! DEFINITION. The instruction record: six kinds, three operand shapes (R80, R81). -/

namespace Sys2Proof

/-- The operation kinds of the instruction set, in the source's order (R80, R85). -/
inductive Kind where
  | add
  | sub
  | mul
  | div
  | load
  | store
deriving DecidableEq, Repr

/-- An instruction record (R80): one constructor per row of the opcode table. `offset` is a signed integer; the
`OFFW`-bit limit of R87 belongs to the instruction word and is checked by `Instr.wellFormed`. -/
inductive Instr where
  /-- `ADD Rd, Rs1, Rs2` (R190). -/
  | add (rd rs1 rs2 : RegIdx)
  /-- `SUB Rd, Rs1, Rs2` (R191). -/
  | sub (rd rs1 rs2 : RegIdx)
  /-- `MUL Rd, Rs1, Rs2` (R192). -/
  | mul (rd rs1 rs2 : RegIdx)
  /-- `DIV Rd, Rs1, Rs2` (R193). -/
  | div (rd rs1 rs2 : RegIdx)
  /-- `L.D Rd, offset(Rbase)`, alias `LOAD` (R210). -/
  | load (rd : RegIdx) (offset : Int) (base : RegIdx)
  /-- `S.D Rsrc, offset(Rbase)`, alias `STORE` (R211). -/
  | store (rsrc : RegIdx) (offset : Int) (base : RegIdx)
deriving DecidableEq, Repr

/-- The operation kind of a record (R80). -/
def Instr.kind : Instr → Kind
  | .add _ _ _ => .add
  | .sub _ _ _ => .sub
  | .mul _ _ _ => .mul
  | .div _ _ _ => .div
  | .load _ _ _ => .load
  | .store _ _ _ => .store

/-- The destination register (R81): none for a STORE. -/
def Instr.dest : Instr → Option RegIdx
  | .add rd _ _ => some rd
  | .sub rd _ _ => some rd
  | .mul rd _ _ => some rd
  | .div rd _ _ => some rd
  | .load rd _ _ => some rd
  | .store _ _ _ => none

/-- The source registers in the order Issue captures them (R81). -/
def Instr.sources : Instr → List RegIdx
  | .add _ rs1 rs2 => [rs1, rs2]
  | .sub _ rs1 rs2 => [rs1, rs2]
  | .mul _ rs1 rs2 => [rs1, rs2]
  | .div _ rs1 rs2 => [rs1, rs2]
  | .load _ _ base => [base]
  | .store rsrc _ base => [rsrc, base]

end Sys2Proof
end

