-- ==== Sys2Proof/Config.lean ====
section
/-! DEFINITION. The configuration, fixed before reset: every parameter of R4 and R5 that a run depends on. -/

namespace Sys2Proof

/-- The four reservation-station groups (R29). -/
inductive StationGroup where
  | add
  | mul
  | load
  | store
deriving DecidableEq, Repr

/-- The identity `(g, k)` of a station (R31). -/
structure StationId where
  group : StationGroup
  index : Nat
deriving DecidableEq, Repr

/-- `DIV_ROUND` (R5, D2). Truncation is the spec's value; `floor` is the other rounding its R196 table names. -/
inductive DivRound where
  | towardZero
  | floor
deriving DecidableEq, Repr

/-- The record part of `TIE_ORDER` (R5, D7): the order in which Execute-Advance visits the records that finish in one cycle. -/
inductive RecordOrder where
  /-- From the front of the tracker, the spec's order (R149). -/
  | insertion
  /-- From the back of the tracker. -/
  | newestFirst
  /-- By the station's place in a list, a station that is not in it last. -/
  | byStation (order : List StationId)
  /-- By instruction index. -/
  | byInstruction
deriving DecidableEq, Repr

/-- The station order of R31 for given group sizes: ADD, MUL, LOAD, STORE, each by ascending index. -/
def orderedStations (nAdd nMul nLoad nStore : Nat) : List StationId :=
  (List.range nAdd).map (StationId.mk .add) ++ (List.range nMul).map (StationId.mk .mul) ++
    (List.range nLoad).map (StationId.mk .load) ++ (List.range nStore).map (StationId.mk .store)

/-- The configuration (R4, R5). Each default is the spec's value. `NREGS` and the three widths 1 are not configurable
(R4), `ILEN` is 32 (D8), `PROG_LEN` is the length of the loaded program. -/
structure Config where
  /-- `XLEN`, the width of a data value (D1). -/
  xlen : Nat := 32
  /-- `MEM_SIZE`, the number of data-memory words. -/
  memSize : Nat := 1024
  /-- `REG_INIT`, the reset value of every register. -/
  regInit : Int := 10
  /-- `MEM_INIT`, as the exceptions to its default `MEM_INIT(i)` = i: a pair (i, v) says that `MEM_INIT(i)` = v. -/
  memInit : List (Nat × Int) := []
  /-- `ROB_SIZE`. -/
  robSize : Nat := 16
  /-- `N_ADD`. -/
  nAdd : Nat := 3
  /-- `N_MUL`. -/
  nMul : Nat := 2
  /-- `N_LOAD`. -/
  nLoad : Nat := 3
  /-- `N_STORE`. -/
  nStore : Nat := 3
  /-- `LAT_ADD`. -/
  latAdd : Int := 2
  /-- `LAT_SUB`. -/
  latSub : Int := 2
  /-- `LAT_MUL`. -/
  latMul : Int := 10
  /-- `LAT_DIV`. -/
  latDiv : Int := 40
  /-- `LAT_LOAD`. -/
  latLoad : Int := 2
  /-- `LAT_STORE`. -/
  latStore : Int := 2
  /-- `DIV_ROUND` (D2). -/
  divRound : DivRound := .towardZero
  /-- `CYCLE_RESET` (D3). -/
  cycleReset : Nat := 1
  /-- `OFFW`, the width of the offset field of a format-M word (D9). -/
  offw : Nat := 16
  /-- `RS_PICK` (D6) as a priority list: Issue takes the first free station of the group in this list. -/
  pickOrder : List StationId := orderedStations nAdd nMul nLoad nStore
  /-- `TIE_ORDER` (D7), first part: the order in which Execute-Start scans the stations. -/
  scanOrder : List StationId := orderedStations nAdd nMul nLoad nStore
  /-- `TIE_ORDER` (D7), second part: the order in which Execute-Advance visits the records. -/
  recordOrder : RecordOrder := .insertion
deriving DecidableEq, Repr

/-- `N_g`, the number of stations of a group (R29). -/
def Config.groupSize (c : Config) : StationGroup → Nat
  | .add => c.nAdd
  | .mul => c.nMul
  | .load => c.nLoad
  | .store => c.nStore

/-- The station order of R31: every station of the machine, once. -/
def Config.stationOrder (c : Config) : List StationId :=
  orderedStations c.nAdd c.nMul c.nLoad c.nStore

/-- `N_RS` (R4). -/
def Config.stationCount (c : Config) : Nat := c.nAdd + c.nMul + c.nLoad + c.nStore

/-- The offset field lies in bits 18:0 of a format-M word, below the base register (R84). -/
abbrev OffsetWidthFits (offw : Nat) : Prop := 1 ≤ offw ∧ offw ≤ 19

/-- The legal configurations: latencies and pool sizes at least 1 (D16, D22); an offset field that fits its word (R84); a
width that holds the sign-extended offset (R87) and the register reset value; the two orders list every station exactly
once. -/
abbrev Config.Legal (c : Config) : Prop :=
  OffsetWidthFits c.offw ∧ c.offw ≤ c.xlen ∧ InRange c.xlen c.regInit ∧ 1 ≤ c.robSize ∧
  1 ≤ c.nAdd ∧ 1 ≤ c.nMul ∧ 1 ≤ c.nLoad ∧ 1 ≤ c.nStore ∧
  1 ≤ c.latAdd ∧ 1 ≤ c.latSub ∧ 1 ≤ c.latMul ∧ 1 ≤ c.latDiv ∧ 1 ≤ c.latLoad ∧ 1 ≤ c.latStore ∧
  c.pickOrder.Perm c.stationOrder ∧ c.scanOrder.Perm c.stationOrder

end Sys2Proof
end

