-- ==== Sys2Proof/WellFormed.lean ====
section
/-! DEFINITION. Which instruction records an instruction word can spell (R86, R87). -/

namespace Sys2Proof

/-- The offset fits the `OFFW`-bit field of format M (R87, D9). -/
def offsetFits (offw : Nat) (offset : Int) : Bool := decide (InRange offw offset)

/-- A record that has an instruction word: the offset of a LOAD or STORE fits its field. Every register index is legal
by its type (R86, D23), so an arithmetic record always has one. -/
def Instr.wellFormed (offw : Nat) : Instr → Bool
  | .add _ _ _ => true
  | .sub _ _ _ => true
  | .mul _ _ _ => true
  | .div _ _ _ => true
  | .load _ offset _ => offsetFits offw offset
  | .store _ offset _ => offsetFits offw offset

end Sys2Proof
end

