-- ==== Sys2Proof/Decode.lean ====
section
/-! DEFINITION. The instruction word: decoder (R88), encoder (R83, R84, R89), and the host's view of the decoder. -/

namespace Sys2Proof

/-- Why a word is reserved (R90). -/
inductive ReservedWhy where
  /-- `op` is 6 or 7. -/
  | op
  /-- Bits 13:0 of a format-R word are not 0. -/
  | zero14
  /-- The bits between the offset and the base register of a format-M word (18:16 at `OFFW` = 16) are not 0. -/
  | zero3
deriving DecidableEq, Repr

/-- The verdict of the decoder (R88): an instruction record, or `Reserved` with the reason. -/
inductive Decoded where
  | instr (i : Instr)
  | reserved (why : ReservedWhy)
deriving DecidableEq, Repr

/-- The instruction of a verdict. -/
def Decoded.instr? : Decoded → Option Instr
  | .instr i => some i
  | .reserved _ => none

/-- The field `op`, bits 31:29 (R85). -/
def opField (w : InstrWord) : Nat := (w.extractLsb' 29 3).toNat

/-- A 5-bit register field whose lowest bit is `lo` (R86). -/
def regField (lo : Nat) (w : InstrWord) : RegIdx := (w.extractLsb' lo 5).toFin

/-- The offset of format M: the low `OFFW` bits, 15:0 by default, sign-extended (R87). -/
def offsetField (offw : Nat) (w : InstrWord) : Int := (w.extractLsb' 0 offw).toInt

/-- Format R, bits 13:0 (R83). -/
def zero14Field (w : InstrWord) : BitVec 14 := w.extractLsb' 0 14

/-- Format M, the bits from the offset up to bit 18, 18:16 by default (R84). -/
def zero3Field (offw : Nat) (w : InstrWord) : BitVec (19 - offw) := w.extractLsb' offw (19 - offw)

/-- A format-R word as the record that `make` builds from `rd`, `rs1`, `rs2` (R83, R88). -/
def decodeR (make : RegIdx → RegIdx → RegIdx → Instr) (w : InstrWord) : Decoded :=
  if zero14Field w = 0 then .instr (make (regField 24 w) (regField 19 w) (regField 14 w))
  else .reserved .zero14

/-- A format-M word as the record that `make` builds from the first register, the offset and the base (R84, R88). -/
def decodeM (offw : Nat) (make : RegIdx → Int → RegIdx → Instr) (w : InstrWord) : Decoded :=
  if zero3Field offw w = 0 then .instr (make (regField 24 w) (offsetField offw w) (regField 19 w))
  else .reserved .zero3

/-- The decoder (R88) for a width `OFFW` of the offset field, total on all 2^32 words. -/
def decode (offw : Nat) (w : InstrWord) : Decoded :=
  match opField w with
  | 0 => decodeR .add w
  | 1 => decodeR .sub w
  | 2 => decodeR .mul w
  | 3 => decodeR .div w
  | 4 => decodeM offw .load w
  | 5 => decodeM offw .store w
  | _ => .reserved .op

/-- A field's bits at their place in the word: its lowest bit is bit `lo`. -/
def placeField {n : Nat} (lo : Nat) (v : BitVec n) : InstrWord := v.setWidth 32 <<< lo

/-- The format-R word of an operation number and three registers (R83); bits 13:0 are 0. -/
def encodeR (op : BitVec 3) (ra rb rc : RegIdx) : InstrWord :=
  placeField 29 op ||| placeField 24 (BitVec.ofNat 5 ra.val) ||| placeField 19 (BitVec.ofNat 5 rb.val) |||
    placeField 14 (BitVec.ofNat 5 rc.val)

/-- The format-M word of an operation number, a register, an offset and a base register (R84); the bits between the last
two are 0. -/
def encodeM (offw : Nat) (op : BitVec 3) (ra : RegIdx) (offset : Int) (rb : RegIdx) : InstrWord :=
  placeField 29 op ||| placeField 24 (BitVec.ofNat 5 ra.val) ||| placeField 19 (BitVec.ofNat 5 rb.val) |||
    placeField 0 (BitVec.ofInt offw offset)

/-- The word of a well-formed record (R89). -/
def encode (offw : Nat) : Instr → InstrWord
  | .add rd rs1 rs2 => encodeR 0 rd rs1 rs2
  | .sub rd rs1 rs2 => encodeR 1 rd rs1 rs2
  | .mul rd rs1 rs2 => encodeR 2 rd rs1 rs2
  | .div rd rs1 rs2 => encodeR 3 rd rs1 rs2
  | .load rd offset base => encodeM offw 4 rd offset base
  | .store rsrc offset base => encodeM offw 5 rsrc offset base

/-- The instruction word given by the low `nbits` bits of `w`, every bit above them 0. -/
def tableWord (nbits w : Nat) : InstrWord := BitVec.ofNat 32 (w % 2 ^ nbits)

/-- What the decoder of the default configuration reads from an instruction whose bits are the low `nbits` bits of `w`. -/
def decodeTableWord (nbits w : Nat) : Option Instr :=
  (decode ({} : Config).offw (tableWord nbits w)).instr?

end Sys2Proof
end

