-- ==== Sys2Proof/Machine/State.lean ====
section
/-! DEFINITION. The machine state as plain data, its reset values, the reasons a step can stop (R20 to R44). -/

namespace Sys2Proof.Machine

/-- A reservation station (R30). The default of each field is its reset and cleared value (D5). -/
structure Station where
  busy : Bool := false
  op : Option Kind := none
  vj : Int := 0
  vk : Int := 0
  /-- The ROB index that will produce `vj`; `none` when `vj` is the operand (R32). -/
  qj : Option Nat := none
  /-- The ROB index that will produce `vk`; `none` when `vk` is the operand (R32). -/
  qk : Option Nat := none
  destRob : Option Nat := none
  /-- The offset of a LOAD or STORE. -/
  a : Int := 0
  instructionIndex : Option Nat := none
deriving DecidableEq, Repr

/-- The pool in its four groups (R29). -/
structure StationPool where
  add : List Station
  mul : List Station
  load : List Station
  store : List Station
deriving DecidableEq, Repr

/-- The state of a ROB entry (R34). -/
inductive EntryState where
  | empty
  | issued
  | executing
  | wroteResult
deriving DecidableEq, Repr

/-- A ROB entry (R33). The default of each field is its reset and empty value (D5). -/
structure RobEntry where
  busy : Bool := false
  instructionIndex : Option Nat := none
  kind : Option Kind := none
  state : EntryState := .empty
  destinationRegister : Option RegIdx := none
  value : Int := 0
  address : Int := 0
  valueReady : Bool := false
deriving DecidableEq, Repr

/-- A row of the register status (rename) table (R28). -/
structure RegStatus where
  busy : Bool := false
  robIndex : Option Nat := none
deriving DecidableEq, Repr

/-- An in-flight record of the functional-unit tracker (R36). -/
structure FuRecord where
  rs : StationId
  instructionIndex : Nat
  remaining : Int
deriving DecidableEq, Repr

/-- The four event stamps of one program instruction, each initially unset (R38). -/
structure Stamps where
  issue : Option Nat := none
  executionComplete : Option Nat := none
  writeResult : Option Nat := none
  commit : Option Nat := none
deriving DecidableEq, Repr

/-- A diagnostic event (R230 to R235). Its port code is `diagnosticCode` (R237). -/
inductive Diagnostic where
  /-- A DIV whose divisor is 0, at Write-Result (R231). -/
  | divByZero (index : Nat)
  /-- A LOAD outside the memory, at Write-Result (R232). -/
  | loadAddrRange (index : Nat) (address : Int)
  /-- A STORE outside the memory, at Commit (R233). -/
  | storeAddrRange (index : Nat) (address : Int)
  /-- A broken internal invariant (R234). No state holds this event: the step that would raise it is a `Fault` (U5). -/
  | internalInvariant (robIndex : Nat)
  /-- A reserved word at Issue (R235). -/
  | illegalKind (pc : Nat)
deriving DecidableEq, Repr

/-- The data memory (R27) as the words that differ from their reset value, addresses strictly rising. The unit is the
word, not the byte (R61, D18). -/
abbrev Memory := List (Nat × Int)

/-- The machine state. The fields from `regs` to `stamp` are the spec's (R20 to R39); `cfg`, `prog` and `diagOut` are the
MODEL's own places for what the spec calls configuration, program store and output (R40, R44). -/
structure State where
  /-- The configuration, fixed for the run (R4, R5). -/
  cfg : Config
  /-- The program store `prog[0 .. PROG_LEN-1]`, read-only (R44, R82). -/
  prog : List InstrWord
  /-- The diagnostic output of the most recent step (R40). -/
  diagOut : List Diagnostic
  /-- The architectural registers `F[0..31]` (R20). -/
  regs : Vector Int 32
  /-- The data memory (R27). -/
  mem : Memory
  /-- The register status table (R28). -/
  regStatus : Vector RegStatus 32
  /-- The reservation stations (R29, R30). -/
  rs : StationPool
  /-- The reorder buffer (R33). -/
  rob : List RobEntry
  /-- The oldest busy ROB entry (R35). -/
  head : Nat
  /-- The next ROB entry to allocate (R35). -/
  tail : Nat
  /-- The number of free ROB entries (R35). -/
  entriesAvailable : Nat
  /-- The functional-unit tracker, oldest record first (R36). -/
  fu : List FuRecord
  /-- The CDB queue of ROB indices, front first (R37). -/
  cdbq : List Nat
  /-- The next-instruction index (R23). -/
  pc : Nat
  /-- The cycle counter (R26). -/
  cycle : Nat
  /-- The event stamps, one row for each program instruction (R38). -/
  stamp : List Stamps
deriving DecidableEq, Repr

/-- Why a step stops with a fault. All four are the "internal invariant violation" of R234, which U5 tells a model to
treat as a fault; none is reachable from reset, and stopping is SAFE. -/
inductive Fault where
  /-- Raised by Write-Result: no busy station writes into the popped ROB index (R165). Safe. -/
  | missingStation (robIndex : Nat)
  /-- Raised by Issue: a busy rename row names no ROB entry (the "orphan tag" of R234). Safe. -/
  | orphanTag
  /-- Raised by Execute-Start, Execute-Advance and Write-Result: a busy station lacks its kind, its instruction index or
  its ROB index. Safe. -/
  | incompleteStation (id : StationId)
  /-- Raised by Commit: the head entry that wrote its result lacks its kind, its instruction index or, for a non-STORE,
  its destination register. Safe. -/
  | incompleteEntry (robIndex : Nat)
deriving DecidableEq, Repr

/-- Why the machine refuses. -/
inductive Refusal where
  /-- Raised by an arm of `exec` whose instruction has no meaning yet (none is left). Safe. -/
  | notModelled (mnemonic : String)
  /-- Raised by `loadProgram`: the program holds a reserved word, so it is not well formed (R90, R252, D12). Safe. -/
  | reservedWord (index : Nat)
  /-- Raised by `loadProgram`: the configuration is outside its domain (D16, D22, U8). Safe. -/
  | illegalConfig
deriving DecidableEq, Repr

/-- The reset values of R42 for a configuration and a loaded program (R250). -/
def State.resetWith (c : Config) (program : List InstrWord) : State where
  cfg := c
  prog := program
  diagOut := []
  regs := Vector.replicate 32 c.regInit
  mem := []
  regStatus := Vector.replicate 32 {}
  rs := {
    add := List.replicate c.nAdd {}
    mul := List.replicate c.nMul {}
    load := List.replicate c.nLoad {}
    store := List.replicate c.nStore {} }
  rob := List.replicate c.robSize {}
  head := 0
  tail := 0
  entriesAvailable := c.robSize
  fu := []
  cdbq := []
  pc := 0
  cycle := c.cycleReset
  stamp := List.replicate program.length {}

/-- The machine right after reset at the default configuration, with no program placed (R42, R250; `PROG_LEN` = 0). -/
def State.reset : State := State.resetWith {} []

end Sys2Proof.Machine
end

