-- ==== Sys2Proof/Machine/Flags.lean ====
section
/-! DEFINITION. The machine has no status flags, condition codes or predicates (R24): no instruction sets or reads one.
What an arithmetic or address condition leaves behind is a diagnostic event; this file holds its conditions and codes. -/

namespace Sys2Proof.Machine

/-- The code of an event on a diagnostic output port (R237). -/
def diagnosticCode : Diagnostic → Nat
  | .divByZero _ => 1
  | .loadAddrRange _ _ => 2
  | .storeAddrRange _ _ => 3
  | .internalInvariant _ => 4
  | .illegalKind _ => 5

/-- The event of instruction `i`'s division by `divisor` (R231): raised iff the divisor is 0. -/
def divEvents (i : Nat) (divisor : Int) : List Diagnostic :=
  if divisor = 0 then [.divByZero i] else []

/-- The range test on the signed effective address (R62, R67): inside [0, `MEM_SIZE`). -/
def addressValid (c : Config) (address : Int) : Bool :=
  decide (0 ≤ address) && decide (address < (c.memSize : Int))

/-- The event of instruction `i`'s load from `address` (R232): raised iff the address is out of range. -/
def loadEvents (c : Config) (i : Nat) (address : Int) : List Diagnostic :=
  if addressValid c address then [] else [.loadAddrRange i address]

/-- The event of instruction `i`'s store to `address` (R233): raised iff the address is out of range. -/
def storeEvents (c : Config) (i : Nat) (address : Int) : List Diagnostic :=
  if addressValid c address then [] else [.storeAddrRange i address]

end Sys2Proof.Machine
end

