-- ==== Sys2Proof/Machine/Ops.lean ====
section
/-! DEFINITION. The named operations over registers, memory and the tables. There is no exception to take and none to
return from (R240, R241): raising a diagnostic is the one thing an error does, and it is `State.raise`. -/

namespace Sys2Proof.Machine

/-- Run a phase, then the rest of the step on the state it left (R100); a fault or a refusal ends the step. -/
def andThen (o : Host.Outcome State Fault Refusal) (f : State → Host.Outcome State Fault Refusal) :
    Host.Outcome State Fault Refusal :=
  match o with
  | .next s => f s
  | .fault r => .fault r
  | .refused r => .refused r

/-- Apply `f` for each element of a list, in order. -/
def forEach {α : Type} (f : State → α → Host.Outcome State Fault Refusal) :
    List α → State → Host.Outcome State Fault Refusal
  | [], s => .next s
  | x :: xs, s => andThen (f s x) (forEach f xs)

/-- `wrap(z)` (R9): the unique value in [`INT_MIN`, `INT_MAX`] congruent to `z` modulo 2^XLEN. -/
def wrap (xlen : Nat) (z : Int) : Int := z.bmod (2 ^ xlen)

/-- `group(kind)` (R9, R85). -/
def groupOf : Kind → StationGroup
  | .add => .add
  | .sub => .add
  | .mul => .mul
  | .div => .mul
  | .load => .load
  | .store => .store

/-- `lat(kind)` (R143): it depends on the kind only. -/
def latency (c : Config) : Kind → Int
  | .add => c.latAdd
  | .sub => c.latSub
  | .mul => c.latMul
  | .div => c.latDiv
  | .load => c.latLoad
  | .store => c.latStore

/-! Memory -/

/-- `MEM_INIT(a)` (R4, R27), the reset value of word `a`: the configured value, by default `a`, held in `XLEN` bits. -/
def memInit (c : Config) (a : Nat) : Int := wrap c.xlen ((c.memInit.lookup a).getD (a : Int))

/-- The word at address `a`: the listed value, else the reset value (R27, R43). -/
def Memory.read (c : Config) : Memory → Nat → Int
  | [], a => memInit c a
  | (b, v) :: rest, a => if a = b then v else Memory.read c rest a

/-- Put `v` at address `a`, keeping the canonical form: a word at its reset value is not listed. -/
def Memory.write (c : Config) : Memory → Nat → Int → Memory
  | [], a, v => if v = memInit c a then [] else [(a, v)]
  | (b, w) :: rest, a, v =>
    if a < b then (if v = memInit c a then (b, w) :: rest else (a, v) :: (b, w) :: rest)
    else if a = b then (if v = memInit c a then rest else (a, v) :: rest)
    else (b, w) :: Memory.write c rest a v

/-- Every address of the list is above `lo`, strictly rising, inside the memory, and its word differs from the reset value. -/
def Memory.wfAbove (c : Config) (lo : Nat) : Memory → Bool
  | [] => true
  | (a, v) :: rest =>
    decide (lo ≤ a) && decide (a < c.memSize) && decide (v ≠ memInit c a) && Memory.wfAbove c (a + 1) rest

/-- The canonical form of the memory: addresses strictly rising, inside the memory, no word at its reset value. -/
def Memory.wf (c : Config) (m : Memory) : Bool := Memory.wfAbove c 0 m

/-- `MemRead(addr, 1)` without its event (R65): the word, or 0 outside [0, `MEM_SIZE`). -/
def memRead (c : Config) (m : Memory) (address : Int) : Int :=
  if addressValid c address then Memory.read c m address.toNat else 0

/-- `MemWrite(addr, 1, v)` without its event (R66): the word is written, or nothing outside [0, `MEM_SIZE`). -/
def memWrite (c : Config) (m : Memory) (address v : Int) : Memory :=
  if addressValid c address then Memory.write c m address.toNat v else m

/-! Stations -/

/-- The stations of a group (R29). -/
def StationPool.group (p : StationPool) : StationGroup → List Station
  | .add => p.add
  | .mul => p.mul
  | .load => p.load
  | .store => p.store

/-- Change one station of a group. -/
def StationPool.set (p : StationPool) (id : StationId) (q : Station) : StationPool :=
  match id.group with
  | .add => { p with add := p.add.set id.index q }
  | .mul => { p with mul := p.mul.set id.index q }
  | .load => { p with load := p.load.set id.index q }
  | .store => { p with store := p.store.set id.index q }

/-- Apply `f` to every station of all four groups. -/
def StationPool.map (p : StationPool) (f : Station → Station) : StationPool where
  add := p.add.map f
  mul := p.mul.map f
  load := p.load.map f
  store := p.store.map f

/-- Every station, in the station order of R31. -/
def StationPool.toList (p : StationPool) : List Station := p.add ++ p.mul ++ p.load ++ p.store

/-- The station `rs[g][k]` (R31); an identity that names no station reads as a free one. -/
def State.station (s : State) (id : StationId) : Station := (s.rs.group id.group).getD id.index {}

/-- The identity names a station of the machine (R31). -/
def State.stationExists (s : State) (id : StationId) : Bool := decide (id.index < (s.rs.group id.group).length)

/-- Write a station. -/
def State.setStation (s : State) (id : StationId) (q : Station) : State := { s with rs := s.rs.set id q }

/-- Release a station: every field takes its cleared value (R30, R164). -/
def State.releaseStation (s : State) (id : StationId) : State := s.setStation id {}

/-! Reorder buffer -/

/-- The entry `rob[p]` (R33); an index that names no entry reads as an empty one. -/
def State.entry (s : State) (p : Nat) : RobEntry := s.rob.getD p {}

/-- Write a ROB entry. -/
def State.setEntry (s : State) (p : Nat) (e : RobEntry) : State := { s with rob := s.rob.set p e }

/-- The successor of a ROB index (R9). -/
def nextIndex (c : Config) (p : Nat) : Nat := (p + 1) % c.robSize

/-- Take the tail slot: the tail advances and one entry fewer is free (R123). -/
def State.advanceTail (s : State) : State :=
  { s with tail := nextIndex s.cfg s.tail, entriesAvailable := s.entriesAvailable - 1 }

/-- Free the head slot: the head advances and one entry more is free (R182). -/
def State.advanceHead (s : State) : State :=
  { s with head := nextIndex s.cfg s.head, entriesAvailable := s.entriesAvailable + 1 }

/-! Registers and rename table -/

/-- Read `F[r]` (R9). No register is hard-wired (R21). -/
def State.reg (s : State) (r : RegIdx) : Int := s.regs[r]

/-- Write `F[r]` (R9, R178). -/
def State.setReg (s : State) (r : RegIdx) (v : Int) : State := { s with regs := s.regs.set r v }

/-- Read `regStatus[r]` (R28). -/
def State.rename (s : State) (r : RegIdx) : RegStatus := s.regStatus[r]

/-- Write `regStatus[r]` (R28). -/
def State.setRename (s : State) (r : RegIdx) (x : RegStatus) : State := { s with regStatus := s.regStatus.set r x }

/-! Stamps, queues, counters, events -/

/-- The stamps of instruction `i` (R38). -/
def State.stampOf (s : State) (i : Nat) : Stamps := s.stamp.getD i {}

/-- Change the stamps of instruction `i` (R38). -/
def State.setStamp (s : State) (i : Nat) (f : Stamps → Stamps) : State := { s with stamp := s.stamp.set i (f (s.stampOf i)) }

/-- `diag Name(info)` (R230): append events to the step's output. It has no other effect. -/
def State.raise (s : State) (events : List Diagnostic) : State := { s with diagOut := s.diagOut ++ events }

/-- The output of a new step starts empty (R40). -/
def State.clearEvents (s : State) : State := { s with diagOut := [] }

/-- Write the data memory (R66). -/
def State.setMem (s : State) (m : Memory) : State := { s with mem := m }

/-- Replace the tracker (R36). -/
def State.setFu (s : State) (l : List FuRecord) : State := { s with fu := l }

/-- Replace the CDB queue (R37). -/
def State.setCdbq (s : State) (l : List Nat) : State := { s with cdbq := l }

/-- `pc <- pc + 1`, the only update of `pc` (R131). -/
def State.advancePc (s : State) : State := { s with pc := s.pc + 1 }

/-- `cycle <- cycle + 1` (R102). -/
def State.tick (s : State) : State := { s with cycle := s.cycle + 1 }

/-! Program store -/

/-- The word `prog[pc]`, if an un-issued instruction remains (R44, R120). -/
def State.fetch (s : State) : Option InstrWord := s.prog[s.pc]?

/-- Put word `w` at `prog[pc]`, and one row of unset stamps for every program instruction that has none (R38). This is
the load of a program from outside the machine (R252). -/
def State.placeAtPc (s : State) (w : InstrWord) : State :=
  let program := s.prog.take s.pc ++ List.replicate (s.pc - s.prog.length) 0 ++ [w] ++ s.prog.drop (s.pc + 1)
  { s with prog := program, stamp := s.stamp ++ List.replicate (program.length - s.stamp.length) {} }

end Sys2Proof.Machine
end

