-- ==== Sys2Proof/Machine/Operands.lean ====
section
/-! DEFINITION. Operand capture (R126), the wiring of the operand forms (R127 to R129), the effective address (R212). -/

namespace Sys2Proof.Machine

/-- What capture returns (R126): the pair (V, Q). -/
structure Operand where
  v : Int
  q : Option Nat
deriving DecidableEq, Repr

/-- The entry's value can be forwarded at Issue (R126). -/
def RobEntry.forwards (e : RobEntry) : Bool := e.busy && e.state == .wroteResult && e.valueReady

/-- `capture(s)` (R126): the register, else the producer's value in the ROB, else the producer's tag with V = 0. `none`
when the rename row is busy and names no producer (the orphan tag of R234). -/
def capture (s : State) (r : RegIdx) : Option Operand :=
  if (s.rename r).busy then
    match (s.rename r).robIndex with
    | some p => if (s.entry p).forwards then some ⟨(s.entry p).value, none⟩ else some ⟨0, some p⟩
    | none => none
  else some ⟨s.reg r, none⟩

/-- Source 1 to (Vj, Qj), source 2 to (Vk, Qk); `A` stays 0 (R127). -/
def Station.wireArith (q : Station) (source1 source2 : Operand) : Station :=
  { q with vj := source1.v, qj := source1.q, vk := source2.v, qk := source2.q }

/-- The offset in `A`, the base to (Vk, Qk); (Vj, Qj) unused (R128). -/
def Station.wireLoad (q : Station) (offset : Int) (base : Operand) : Station :=
  { q with a := offset, vk := base.v, qk := base.q }

/-- The data to (Vj, Qj), the base to (Vk, Qk), the offset in `A` (R129). -/
def Station.wireStore (q : Station) (data : Operand) (offset : Int) (base : Operand) : Station :=
  { q with vj := data.v, qj := data.q, a := offset, vk := base.v, qk := base.q }

/-- The record's offset as the `XLEN`-bit value that the station's `A` holds (R80, R87). -/
def offsetValue (c : Config) (offset : Int) : Int := wrap c.xlen offset

/-- `ea = wrap(A + Vk)`, the one addressing mode (R212). -/
def effectiveAddress (c : Config) (q : Station) : Int := wrap c.xlen (q.a + q.vk)

end Sys2Proof.Machine
end

