-- ==== Sys2Proof/Machine/Commit.lean ====
section
/-! DEFINITION. The Commit phase (R175 to R184): in-order retirement of the ROB head, at most one per cycle. -/

namespace Sys2Proof.Machine

/-- Commit proceeds (R175, R176). -/
def State.commitReady (s : State) : Bool :=
  decide (s.entriesAvailable < s.cfg.robSize) && (s.entry s.head).busy && (s.entry s.head).state == .wroteResult &&
    !((s.entry s.head).kind == some .store && !(s.entry s.head).valueReady)

/-- Conditional un-rename (R179): only while the row still names the committing entry `h`. -/
def State.unrename (s : State) (r : RegIdx) (h : Nat) : State :=
  if (s.rename r).busy ∧ (s.rename r).robIndex = some h then s.setRename r {} else s

/-- The architectural effect of a non-STORE (R178, R179). -/
def State.commitRegister (s : State) (r : RegIdx) (v : Int) (h : Nat) : State := (s.setReg r v).unrename r h

/-- The architectural effect of instruction `i`, a STORE (R180, R181). -/
def State.commitStore (s : State) (i : Nat) (address v : Int) : State :=
  (s.setMem (memWrite s.cfg s.mem address v)).raise (storeEvents s.cfg i address)

/-- Free the head slot (R182). -/
def State.freeHead (s : State) : State := (s.setEntry s.head {}).advanceHead

/-- The stamp of R177. -/
def State.stampCommit (s : State) (i : Nat) : State := s.setStamp i fun t => { t with commit := some s.cycle }

/-- The Commit phase, in the order of R184: test, stamp, architectural write, free. -/
def commit (s : State) : Host.Outcome State Fault Refusal :=
  if s.commitReady then
    match (s.entry s.head).instructionIndex, (s.entry s.head).kind, (s.entry s.head).destinationRegister with
    | some i, some .store, _ =>
      .next ((s.stampCommit i).commitStore i (s.entry s.head).address (s.entry s.head).value).freeHead
    | some i, some _, some r => .next ((s.stampCommit i).commitRegister r (s.entry s.head).value s.head).freeHead
    | _, _, _ => .fault (.incompleteEntry s.head)
  else .next s

end Sys2Proof.Machine
end

