-- ==== Sys2Proof/Machine/Issue.lean ====
section
/-! DEFINITION. The shared parts of Issue (R120 to R132): precondition, allocation, station choice, rename, and one
issue operation for each of the three operand shapes. -/

namespace Sys2Proof.Machine

/-- The station is one of group `g` and free (R120 (3)). -/
def State.freeIn (s : State) (g : StationGroup) (id : StationId) : Bool :=
  decide (id.group = g) && s.stationExists id && !(s.station id).busy

/-- The station Issue takes (R124): the first free one of the group in the configured order, by default the lowest index. -/
def State.pickStation (s : State) (g : StationGroup) : Option StationId := s.cfg.pickOrder.find? (s.freeIn g)

/-- The ROB entry of the instruction under issue (R122). -/
def issuedEntry (k : Kind) (dest : Option RegIdx) (i : Nat) : RobEntry where
  busy := true
  instructionIndex := some i
  kind := some k
  state := .issued
  destinationRegister := dest
  value := 0
  address := 0
  valueReady := false

/-- Steps 1 and 2 (R122, R123): fill the tail slot, advance the tail, stamp `issue`. -/
def State.allocateEntry (s : State) (k : Kind) (dest : Option RegIdx) : State :=
  (s.setEntry s.tail (issuedEntry k dest s.pc)).advanceTail.setStamp s.pc fun t => { t with issue := some s.cycle }

/-- Step 3's bookkeeping (R125) on the chosen station. -/
def Station.occupy (q : Station) (k : Kind) (i b : Nat) : Station :=
  { q with busy := true, op := some k, instructionIndex := some i, destRob := some b }

/-- R120 to R125: `none` on a structural stall, else the chosen station's identity and the state with the ROB slot
allocated and the station occupied. -/
def beginIssue (k : Kind) (dest : Option RegIdx) (s : State) : Option (StationId × State) :=
  match s.pickStation (groupOf k) with
  | some id =>
    if s.pc < s.prog.length ∧ 0 < s.entriesAvailable then
      some (id, (s.allocateEntry k dest).setStation id ((s.station id).occupy k s.pc s.tail))
    else none
  | none => none

/-- Step 6 (R130): the destination names the new ROB entry; without a destination nothing is renamed. -/
def State.renameDest (s : State) (dest : Option RegIdx) (b : Nat) : State :=
  match dest with
  | some r => s.setRename r { busy := true, robIndex := some b }
  | none => s

/-- R129, last part: a STORE's data that is known at Issue goes to its ROB entry. -/
def State.storeDataAtIssue (s : State) (b : Nat) (q : Station) : State :=
  if q.qj = none then s.setEntry b { s.entry b with value := q.vj, valueReady := true } else s

/-- Issue of `Arith(kind, rd, rs1, rs2)` (R120 to R132, R194 step 1). Capture reads the state before the rename (R132). -/
def issueArith (k : Kind) (rd rs1 rs2 : RegIdx) (s : State) : Host.Outcome State Fault Refusal :=
  match beginIssue k (some rd) s with
  | none => .next s
  | some (id, s1) =>
    match capture s1 rs1, capture s1 rs2 with
    | some o1, some o2 =>
      .next ((s1.setStation id ((s1.station id).wireArith o1 o2)).renameDest (some rd) s.tail).advancePc
    | _, _ => .fault .orphanTag

/-- Issue of `Load(rd, offset, base)` (R128, R210). -/
def issueLoad (rd : RegIdx) (offset : Int) (base : RegIdx) (s : State) : Host.Outcome State Fault Refusal :=
  match beginIssue .load (some rd) s with
  | none => .next s
  | some (id, s1) =>
    match capture s1 base with
    | some o =>
      .next ((s1.setStation id ((s1.station id).wireLoad (offsetValue s.cfg offset) o)).renameDest (some rd) s.tail).advancePc
    | none => .fault .orphanTag

/-- Issue of `Store(rsrc, offset, base)` (R129, R211). -/
def issueStore (rsrc : RegIdx) (offset : Int) (base : RegIdx) (s : State) : Host.Outcome State Fault Refusal :=
  match beginIssue .store none s with
  | none => .next s
  | some (id, s1) =>
    match capture s1 rsrc, capture s1 base with
    | some od, some ob =>
      let q := (s1.station id).wireStore od (offsetValue s.cfg offset) ob
      .next (((s1.setStation id q).storeDataAtIssue s.tail q).renameDest none s.tail).advancePc
    | _, _ => .fault .orphanTag

end Sys2Proof.Machine
end

