-- ==== Sys2Proof/Machine/Arith.lean ====
section
/-! DEFINITION. ADD, SUB, MUL, DIV (R190 to R196): for each its Issue (the meaning `exec` calls) and the pure function
its Write-Result applies to the station's operands. -/

namespace Sys2Proof.Machine

/-- What Write-Result computes from a station (R158): the result, the effective address of a LOAD or STORE, the events. -/
structure Computed where
  result : Int
  address : Option Int := none
  events : List Diagnostic := []
deriving DecidableEq, Repr

/-- The integer quotient at the configured rounding (R196, D2). -/
def quotient (r : DivRound) (dividend divisor : Int) : Int :=
  match r with
  | .towardZero => dividend.tdiv divisor
  | .floor => dividend.fdiv divisor

/-- ADD (R190): `wrap(Vj + Vk)`. -/
def addResult (c : Config) (vj vk : Int) : Int := wrap c.xlen (vj + vk)

/-- SUB (R191): `wrap(Vj - Vk)`. -/
def subResult (c : Config) (vj vk : Int) : Int := wrap c.xlen (vj - vk)

/-- MUL (R192): `wrap(Vj * Vk)`. -/
def mulResult (c : Config) (vj vk : Int) : Int := wrap c.xlen (vj * vk)

/-- DIV (R193): 0 for a zero divisor, else the wrapped quotient. -/
def divResult (c : Config) (vj vk : Int) : Int :=
  if vk = 0 then 0 else wrap c.xlen (quotient c.divRound vj vk)

/-- ADD at Write-Result (R158, R190). -/
def computeAdd (c : Config) (q : Station) : Computed := { result := addResult c q.vj q.vk }

/-- SUB at Write-Result (R158, R191). -/
def computeSub (c : Config) (q : Station) : Computed := { result := subResult c q.vj q.vk }

/-- MUL at Write-Result (R158, R192). -/
def computeMul (c : Config) (q : Station) : Computed := { result := mulResult c q.vj q.vk }

/-- DIV at Write-Result (R158, R193, R231). -/
def computeDiv (c : Config) (q : Station) (i : Nat) : Computed :=
  { result := divResult c q.vj q.vk, events := divEvents i q.vk }

/-- ADD under issue (R190, R194). -/
def execAdd (rd rs1 rs2 : RegIdx) (s : State) : Host.Outcome State Fault Refusal := issueArith .add rd rs1 rs2 s

/-- SUB under issue (R191, R194). -/
def execSub (rd rs1 rs2 : RegIdx) (s : State) : Host.Outcome State Fault Refusal := issueArith .sub rd rs1 rs2 s

/-- MUL under issue (R192, R194). -/
def execMul (rd rs1 rs2 : RegIdx) (s : State) : Host.Outcome State Fault Refusal := issueArith .mul rd rs1 rs2 s

/-- DIV under issue (R193, R194). -/
def execDiv (rd rs1 rs2 : RegIdx) (s : State) : Host.Outcome State Fault Refusal := issueArith .div rd rs1 rs2 s

end Sys2Proof.Machine
end

