-- ==== Sys2Proof/Machine/MemOps.lean ====
section
/-! DEFINITION. LOAD and STORE (R210 to R212): for each its Issue and what its Write-Result computes; a STORE's memory
write is in the Commit phase. -/

namespace Sys2Proof.Machine

/-- LOAD at Write-Result (R158, R210): the memory is read here, as this cycle's Commit left it (R69). -/
def computeLoad (c : Config) (m : Memory) (q : Station) (i : Nat) : Computed where
  result := memRead c m (effectiveAddress c q)
  address := some (effectiveAddress c q)
  events := loadEvents c i (effectiveAddress c q)

/-- STORE at Write-Result (R158, R211): the data and the address; memory is not written here. -/
def computeStore (c : Config) (q : Station) : Computed where
  result := q.vj
  address := some (effectiveAddress c q)

/-- LOAD under issue (R210). -/
def execLoad (rd : RegIdx) (offset : Int) (base : RegIdx) (s : State) : Host.Outcome State Fault Refusal :=
  issueLoad rd offset base s

/-- STORE under issue (R211). -/
def execStore (rsrc : RegIdx) (offset : Int) (base : RegIdx) (s : State) : Host.Outcome State Fault Refusal :=
  issueStore rsrc offset base s

end Sys2Proof.Machine
end

