-- ==== Sys2Proof/Machine/Dispatch.lean ====
section
/-! DEFINITION. The Issue of one instruction, one arm per constructor of Instr. -/

namespace Sys2Proof.Machine

def exec (i : Instr) (s : State) : Host.Outcome State Fault Refusal :=
  match i with
  | .add rd rs1 rs2 => Sys2Proof.Machine.execAdd rd rs1 rs2 s
  | .sub rd rs1 rs2 => Sys2Proof.Machine.execSub rd rs1 rs2 s
  | .mul rd rs1 rs2 => Sys2Proof.Machine.execMul rd rs1 rs2 s
  | .div rd rs1 rs2 => Sys2Proof.Machine.execDiv rd rs1 rs2 s
  | .load rd offset base => Sys2Proof.Machine.execLoad rd offset base s
  | .store rsrc offset base => Sys2Proof.Machine.execStore rsrc offset base s

end Sys2Proof.Machine
end

