-- ==== Sys2Proof/Machine/Execute.lean ====
section
/-! DEFINITION. Execute-Start (R140 to R146) and Execute-Advance (R147 to R151). -/

namespace Sys2Proof.Machine

/-- The dispatch condition (R140, D14). -/
def State.dispatchable (s : State) (q : Station) : Bool :=
  q.busy && q.qj == none && q.qk == none &&
    (match q.destRob with
    | some b => (s.entry b).state == .issued
    | none => false)

/-- Parts 2 and 3 of the dispatch action (R142, R144) on the station's ROB entry. -/
def RobEntry.dispatched (e : RobEntry) (k : Kind) (q : Station) : RobEntry :=
  if k = .store ∧ e.valueReady = false then { e with state := .executing, value := q.vj, valueReady := true }
  else { e with state := .executing }

/-- The dispatch action (R141, R142, R144) for station `id`, if it meets R140. -/
def dispatchStation (s : State) (id : StationId) : Host.Outcome State Fault Refusal :=
  if s.dispatchable (s.station id) then
    match (s.station id).destRob, (s.station id).op, (s.station id).instructionIndex with
    | some b, some k, some i =>
      .next ((s.setFu (s.fu ++ [{ rs := id, instructionIndex := i, remaining := latency s.cfg k }])).setEntry b
        ((s.entry b).dispatched k (s.station id)))
    | _, _, _ => .fault (.incompleteStation id)
  else .next s

/-- Execute-Start (R145): every station once, in the configured scan order. -/
def executeStart (s : State) : Host.Outcome State Fault Refusal := forEach dispatchStation s.cfg.scanOrder s

/-- One decrement (R147). -/
def FuRecord.decrement (f : FuRecord) : FuRecord := { f with remaining := f.remaining - 1 }

/-- The counter reached "zero or below" (R148, R151). -/
def FuRecord.finished (f : FuRecord) : Bool := decide (f.remaining ≤ 0)

/-- The records in the order Execute-Advance visits them (R149, D7). -/
def visitOrder (o : RecordOrder) (records : List FuRecord) : List FuRecord :=
  match o with
  | .insertion => records
  | .newestFirst => records.reverse
  | .byStation order => records.insertionSort fun f g => order.idxOf f.rs ≤ order.idxOf g.rs
  | .byInstruction => records.insertionSort fun f g => f.instructionIndex ≤ g.instructionIndex

/-- Completion of one record (R148): stamp, and the ROB index to the back of the CDB queue. -/
def completeRecord (s : State) (f : FuRecord) : Host.Outcome State Fault Refusal :=
  match (s.station f.rs).destRob with
  | some b =>
    .next ((s.setStamp f.instructionIndex fun t => { t with executionComplete := some s.cycle }).setCdbq (s.cdbq ++ [b]))
  | none => .fault (.incompleteStation f.rs)

/-- Execute-Advance (R147 to R150): every record counts down, the finished ones leave in the configured order, by default
front to back, the others keep their order. -/
def executeAdvance (s : State) : Host.Outcome State Fault Refusal :=
  let counted := s.fu.map FuRecord.decrement
  forEach completeRecord (visitOrder s.cfg.recordOrder (counted.filter FuRecord.finished))
    (s.setFu (counted.filter fun f => !f.finished))

end Sys2Proof.Machine
end

