-- ==== Sys2Proof/Machine/WriteResult.lean ====
section
/-! DEFINITION. The Write-Result phase and the CDB broadcast (R155 to R167). -/

namespace Sys2Proof.Machine

/-- The computation of R158, by the station's kind. -/
def compute (c : Config) (m : Memory) (k : Kind) (q : Station) (i : Nat) : Computed :=
  match k with
  | .add => computeAdd c q
  | .sub => computeSub c q
  | .mul => computeMul c q
  | .div => computeDiv c q i
  | .load => computeLoad c m q i
  | .store => computeStore c q

/-- The station is busy and writes into ROB entry `b` (R156). -/
def Station.producesInto (q : Station) (b : Nat) : Bool := q.busy && q.destRob == some b

/-- The station that writes into ROB entry `b` (R156), looked for in the station order. -/
def State.locateStation (s : State) (b : Nat) : Option StationId :=
  s.cfg.stationOrder.find? fun id => (s.station id).producesInto b

/-- The stamp of R157. -/
def State.stampWriteResult (s : State) (i : Nat) : State := s.setStamp i fun t => { t with writeResult := some s.cycle }

/-- The ROB update of R158 and R159: the address of a LOAD or STORE, the value, its readiness, the state. -/
def RobEntry.wrote (e : RobEntry) (c : Computed) : RobEntry :=
  { e with address := c.address.getD e.address, value := c.result, valueReady := true, state := .wroteResult }

/-- A waiting station receives the result of tag `b` (R160, R162). -/
def Station.receive (b : Nat) (result : Int) (q : Station) : Station :=
  if q.busy then
    let q1 := if q.qj = some b then { q with vj := result, qj := none } else q
    if q1.qk = some b then { q1 with vk := result, qk := none } else q1
  else q

/-- R161's condition: a busy STORE station whose data is tagged `b`. -/
def Station.awaitsStoreData (b : Nat) (q : Station) : Bool := q.busy && q.qj == some b && q.op == some .store

/-- Mirror the data into the ROB entry of one waiting STORE station (R161). -/
def mirrorInto (b : Nat) (result : Int) (rob : List RobEntry) (q : Station) : List RobEntry :=
  if q.awaitsStoreData b then
    match q.destRob with
    | some d => rob.modify d fun e => { e with value := result, valueReady := true }
    | none => rob
  else rob

/-- The broadcast of (b, result) to every busy station (R160 to R162), under the guard of R163. -/
def State.broadcast (s : State) (b : Nat) (result : Int) : State :=
  if (s.entry b).busy then
    { s with
      rs := s.rs.map (Station.receive b result)
      rob := s.rs.toList.foldl (mirrorInto b result) s.rob }
  else s

/-- R157 to R164 for the popped index `b`, its station `id` and that station's kind and instruction index. -/
def State.writeBack (s : State) (b : Nat) (id : StationId) (k : Kind) (i : Nat) : State :=
  let c := compute s.cfg s.mem k (s.station id) i
  ((((s.stampWriteResult i).raise c.events).setEntry b ((s.entry b).wrote c)).broadcast b c.result).releaseStation id

/-- The Write-Result phase (R155 to R167): at most one index leaves the CDB queue. -/
def writeResult (s : State) : Host.Outcome State Fault Refusal :=
  match s.cdbq with
  | [] => .next s
  | b :: rest =>
    match (s.setCdbq rest).locateStation b with
    | none => .fault (.missingStation b)
    | some id =>
      match (s.station id).op, (s.station id).instructionIndex with
      | some k, some i => .next ((s.setCdbq rest).writeBack b id k i)
      | _, _ => .fault (.incompleteStation id)

end Sys2Proof.Machine
end

