-- ==== Sys2Proof/Machine/Cycle.lean ====
section
/-! DEFINITION. The Issue phase, the five-phase cycle (R100), and the host's side: load, reset, clock edge, done,
snapshot (R7, R8, R104 to R106, R250 to R253). -/

namespace Sys2Proof.Machine

/-- The Issue phase on the word at `pc`: nothing without one (R120), the decoded instruction's issue, or for a reserved
word no change but the event `IllegalKind` (R133). -/
def issuePhase (s : State) : Host.Outcome State Fault Refusal :=
  match s.fetch with
  | none => .next s
  | some w =>
    match decode s.cfg.offw w with
    | .instr i => exec i s
    | .reserved _ => .next (s.raise [.illegalKind s.pc])

/-- One clock cycle (R100): Commit, Write-Result, Issue, Execute-Start, Execute-Advance, then the cycle counter. The
diagnostic output is that of this cycle alone (R40). -/
def runCycle (s : State) : Host.Outcome State Fault Refusal :=
  andThen (commit s.clearEvents) fun s1 =>
  andThen (writeResult s1) fun s2 =>
  andThen (issuePhase s2) fun s3 =>
  andThen (executeStart s3) fun s4 =>
  andThen (executeAdvance s4) fun s5 =>
  .next s5.tick

/-- The `done` predicate (R104). -/
def State.done (s : State) : Bool :=
  (List.range s.prog.length).all (fun i => (s.stampOf i).commit.isSome) &&
    s.entriesAvailable == s.cfg.robSize && s.fu.isEmpty && s.cdbq.isEmpty && s.pc == s.prog.length

/-- Reset in mid-run (R250): every piece of state at its reset value, whatever it was. -/
def State.hardReset (s : State) : State := State.resetWith s.cfg s.prog

/-- One rising clock edge (R7): a reset with `rst` high, else one step. -/
def clockEdge (rst : Bool) (s : State) : Host.Outcome State Fault Refusal :=
  if rst then .next s.hardReset else runCycle s

/-- The first reserved word of a program, by instruction index (R90). -/
def reservedIndex (offw : Nat) (program : List InstrWord) : Option Nat :=
  program.findIdx? fun w => (decode offw w).instr?.isNone

/-- Load a program and reset (R252, R253): a program with a reserved word and an illegal configuration are refused (R90,
D12, U8). -/
def loadProgram (c : Config) (program : List InstrWord) : Host.Outcome State Fault Refusal :=
  if c.Legal then
    match reservedIndex c.offw program with
    | some i => .refused (.reservedWord i)
    | none => .next (State.resetWith c program)
  else .refused .illegalConfig

/-- The driver's loop (R105, R253): stop at the first state in which `done` holds, after at most `fuel` steps. -/
def runToDone : Nat → State → Host.Outcome State Fault Refusal
  | 0, s => .next s
  | fuel + 1, s => if s.done then .next s else andThen (runCycle s) (runToDone fuel)

/-- The snapshot (R106): a structural copy of what the host may read between steps; of the rename table the busy rows. -/
structure Snapshot where
  instructions : List (InstrWord × Stamps)
  rs : StationPool
  rob : List RobEntry
  head : Nat
  tail : Nat
  entriesAvailable : Nat
  busyRows : List (RegIdx × RegStatus)
  fu : List FuRecord
  cdbq : List Nat
  pc : Nat
  cycle : Nat
  regs : List Int
  mem : List Int
  events : List Diagnostic
deriving DecidableEq, Repr

/-- Read a snapshot (R106); the state is not changed. -/
def State.snapshot (s : State) : Snapshot where
  instructions := s.prog.zip s.stamp
  rs := s.rs
  rob := s.rob
  head := s.head
  tail := s.tail
  entriesAvailable := s.entriesAvailable
  busyRows := ((List.finRange 32).map fun r => (r, s.rename r)).filter fun x => x.2.busy
  fu := s.fu
  cdbq := s.cdbq
  pc := s.pc
  cycle := s.cycle
  regs := s.regs.toList
  mem := (List.range s.cfg.memSize).map (Memory.read s.cfg s.mem)
  events := s.diagOut

end Sys2Proof.Machine
end

