-- ==== Sys2Proof/Machine/Step.lean ====
section
/-! DEFINITION. One step of the machine (R100), and where a word stands to be the next one it fetches. -/

namespace Sys2Proof.Machine

/-- One step is one clock cycle with `rst` low (R7, R100). -/
def step (s : State) : Host.Outcome State Fault Refusal := runCycle s

/-- `s` with the instruction of the low `nbits` bits of `w` loaded at `prog[pc]`, where the next Issue reads (R44). -/
def State.withFetchWord (s : State) (nbits w : Nat) : State := s.placeAtPc (tableWord nbits w)

end Sys2Proof.Machine
end

