-- ==== Sys2Proof/Safety.lean ====
section
/-! DEFINITION. What claims are stated in terms of: the invariants of R34 and R45 to R52, an idle machine, and the
sequential reference execution of R185 and R194. No definition of the machine uses this file. -/

namespace Sys2Proof.Machine

/-! The invariant -/

/-- The number of busy ROB entries (R50). -/
def State.inFlight (s : State) : Nat := s.cfg.robSize - s.entriesAvailable

/-- The ROB index `j` places after the head (R50). -/
def State.slot (s : State) (j : Nat) : Nat := (s.head + j) % s.cfg.robSize

/-- The entry of an issued instruction that has not written its result (R47). -/
abbrev RobEntry.Pending (e : RobEntry) : Prop := e.state = .issued ∨ e.state = .executing

/-- The tables have the sizes of the configuration and the counters their ranges (R23, R25, R29, R33, R35, R38). -/
structure Shape (s : State) : Prop where
  legal : s.cfg.Legal
  robLength : s.rob.length = s.cfg.robSize
  groupLength : ∀ g, (s.rs.group g).length = s.cfg.groupSize g
  stampLength : s.stamp.length = s.prog.length
  pcRange : s.pc ≤ s.prog.length
  headRange : s.head < s.cfg.robSize
  tailRange : s.tail < s.cfg.robSize
  availableRange : s.entriesAvailable ≤ s.cfg.robSize

/-- The entry of in-flight instruction `i` (R33, R34). -/
abbrev RobEntry.Live (e : RobEntry) (i : Nat) : Prop :=
  e.busy = true ∧ e.state ≠ .empty ∧ e.instructionIndex = some i ∧ e.kind ≠ none ∧
    (e.destinationRegister = none ↔ e.kind = some .store)

/-- The ROB is a circular queue (R50): from the head on, the busy entries in program order, then empty ones. -/
structure RobIsQueue (s : State) : Prop where
  issued : s.inFlight ≤ s.pc
  tailPlace : s.tail = s.slot s.inFlight
  live : ∀ j < s.inFlight, (s.entry (s.slot j)).Live (s.pc - s.inFlight + j)
  free : ∀ j < s.cfg.robSize, s.inFlight ≤ j → s.entry (s.slot j) = {}

/-- The instruction index a station or an entry carries, as a number. -/
def RobEntry.age (e : RobEntry) : Nat := e.instructionIndex.getD 0

/-- A busy rename row points at a live producer of its register (R45), the youngest one (R53, R130); a row that is not
busy holds nothing and its register has no producer in flight. -/
structure RenameIsYoungest (s : State) : Prop where
  producer : ∀ r : RegIdx, (s.rename r).busy = true → ∃ p < s.cfg.robSize, (s.rename r).robIndex = some p ∧
    (s.entry p).busy = true ∧ (s.entry p).destinationRegister = some r
  idle : ∀ r : RegIdx, (s.rename r).busy = false → (s.rename r).robIndex = none
  youngest : ∀ r : RegIdx, ∀ p < s.cfg.robSize, (s.entry p).destinationRegister = some r →
    (s.rename r).busy = true ∧ ∀ p' ∈ (s.rename r).robIndex, (s.entry p).age ≤ (s.entry p').age

/-- Busy stations and pending ROB entries correspond one to one (R47); a free station is cleared (D5). -/
structure StationsMatchEntries (s : State) : Prop where
  entryOf : ∀ id ∈ s.cfg.stationOrder, (s.station id).busy = true → ∃ b < s.cfg.robSize,
    (s.station id).destRob = some b ∧ (s.entry b).Pending ∧
    (s.station id).instructionIndex = (s.entry b).instructionIndex ∧ (s.station id).op = (s.entry b).kind ∧
    (s.station id).op.map groupOf = some id.group
  free : ∀ id ∈ s.cfg.stationOrder, (s.station id).busy = false → s.station id = {}
  unique : ∀ id ∈ s.cfg.stationOrder, ∀ id' ∈ s.cfg.stationOrder, (s.station id).busy = true →
    (s.station id').busy = true → (s.station id).destRob = (s.station id').destRob → id = id'
  stationOf : ∀ b < s.cfg.robSize, (s.entry b).Pending →
    ∃ id ∈ s.cfg.stationOrder, (s.station id).producesInto b = true

/-- A tag names a pending non-STORE producer older than instruction `i` (R39, R132). -/
abbrev State.TagOlder (s : State) (tag : Option Nat) (i : Nat) : Prop :=
  ∀ p ∈ tag, p < s.cfg.robSize ∧ (s.entry p).Pending ∧ (s.entry p).kind ≠ some .store ∧ (s.entry p).age < i

/-- Operand slots (R32, R48): a pending slot holds a live tag and V = 0; the slots a kind does not use are clear (R30). -/
structure OperandsAreExclusive (s : State) : Prop where
  tagJ : ∀ id ∈ s.cfg.stationOrder, (s.station id).busy = true →
    s.TagOlder (s.station id).qj ((s.station id).instructionIndex.getD 0)
  tagK : ∀ id ∈ s.cfg.stationOrder, (s.station id).busy = true →
    s.TagOlder (s.station id).qk ((s.station id).instructionIndex.getD 0)
  valueJ : ∀ id ∈ s.cfg.stationOrder, (s.station id).qj ≠ none → (s.station id).vj = 0
  valueK : ∀ id ∈ s.cfg.stationOrder, (s.station id).qk ≠ none → (s.station id).vk = 0
  loadJ : ∀ id ∈ s.cfg.stationOrder, (s.station id).op = some .load →
    (s.station id).qj = none ∧ (s.station id).vj = 0
  offset : ∀ id ∈ s.cfg.stationOrder, (s.station id).op ≠ some .load → (s.station id).op ≠ some .store →
    (s.station id).a = 0

/-- What an entry's data fields hold (R33, R122, R129, R161): the result is ready once written; before that only a STORE
whose data has arrived holds a value. -/
structure EntryValues (s : State) : Prop where
  written : ∀ p < s.cfg.robSize, (s.entry p).state = .wroteResult → (s.entry p).valueReady = true
  unwritten : ∀ id ∈ s.cfg.stationOrder, (s.station id).busy = true → ∀ b ∈ (s.station id).destRob,
    (s.entry b).address = 0 ∧
    (if (s.station id).op = some .store then
      (s.entry b).value = (s.station id).vj ∧ ((s.entry b).valueReady = true ↔ (s.station id).qj = none)
    else (s.entry b).value = 0 ∧ (s.entry b).valueReady = false)

/-- The station has both operands and its entry is executing (R49, R51). -/
abbrev State.Running (s : State) (id : StationId) : Prop :=
  id ∈ s.cfg.stationOrder ∧ (s.station id).busy = true ∧ (s.station id).qj = none ∧ (s.station id).qk = none ∧
    ∀ b ∈ (s.station id).destRob, (s.entry b).state = .executing

/-- Tracker records and CDB queue elements (R49, R51): each names its own running station, and together they name every
executing one; a station whose entry is still Issued waits for an operand (R140). -/
structure ExecutionIsTracked (s : State) : Prop where
  recordsDistinct : (s.fu.map FuRecord.rs).Nodup
  record : ∀ f ∈ s.fu, s.Running f.rs ∧ (s.station f.rs).instructionIndex = some f.instructionIndex ∧ 1 ≤ f.remaining
  queueDistinct : s.cdbq.Nodup
  queued : ∀ b ∈ s.cdbq, b < s.cfg.robSize ∧ (s.entry b).state = .executing ∧
    ∀ id ∈ s.cfg.stationOrder, (s.station id).producesInto b = true → s.Running id ∧ id ∉ s.fu.map FuRecord.rs
  executing : ∀ id ∈ s.cfg.stationOrder, (s.station id).busy = true → ∀ b ∈ (s.station id).destRob,
    (s.entry b).state = .executing → id ∈ s.fu.map FuRecord.rs ∨ b ∈ s.cdbq
  waiting : ∀ id ∈ s.cfg.stationOrder, (s.station id).busy = true → ∀ b ∈ (s.station id).destRob,
    (s.entry b).state = .issued → (s.station id).qj ≠ none ∨ (s.station id).qk ≠ none

/-- The stamps of one instruction, those set being before `now`: issue <= executionComplete < writeResult < commit (R52),
each set only after the one before it. -/
abbrev Stamps.Ordered (t : Stamps) (now : Nat) : Prop :=
  (∀ x ∈ t.issue, x < now) ∧
  (∀ y ∈ t.executionComplete, y < now ∧ ∃ x ∈ t.issue, x ≤ y) ∧
  (∀ z ∈ t.writeResult, z < now ∧ ∃ y ∈ t.executionComplete, y < z) ∧
  (∀ u ∈ t.commit, u < now ∧ ∃ z ∈ t.writeResult, z < u)

/-- The stamps record the stages each instruction has passed (R38, R52). -/
structure StampsRecord (s : State) : Prop where
  ordered : ∀ i < s.prog.length, (s.stampOf i).Ordered s.cycle
  unissued : ∀ i < s.prog.length, s.pc ≤ i → s.stampOf i = {}
  committed : ∀ i < s.prog.length, i < s.pc - s.inFlight → (s.stampOf i).commit.isSome = true
  flying : ∀ j < s.inFlight,
    (s.stampOf (s.pc - s.inFlight + j)).issue.isSome = true ∧
    ((s.stampOf (s.pc - s.inFlight + j)).executionComplete.isSome = true ↔
      (s.entry (s.slot j)).state = .wroteResult ∨ s.slot j ∈ s.cdbq) ∧
    ((s.stampOf (s.pc - s.inFlight + j)).writeResult.isSome = true ↔ (s.entry (s.slot j)).state = .wroteResult) ∧
    (s.stampOf (s.pc - s.inFlight + j)).commit = none
  inOrder : ∀ i < s.prog.length, ∀ i' < i, ∀ x ∈ (s.stampOf i).commit, ∃ x' ∈ (s.stampOf i').commit, x' < x

/-- Every data value fits `XLEN` bits (R20, R27, R30, R33). -/
structure DataInRange (s : State) : Prop where
  regs : ∀ r : RegIdx, InRange s.cfg.xlen (s.reg r)
  mem : ∀ x ∈ s.mem, InRange s.cfg.xlen x.2
  stations : ∀ q ∈ s.rs.toList, InRange s.cfg.xlen q.vj ∧ InRange s.cfg.xlen q.vk ∧ InRange s.cfg.xlen q.a
  entries : ∀ e ∈ s.rob, InRange s.cfg.xlen e.value ∧ InRange s.cfg.xlen e.address

/-- The pipeline invariant: R34 and R45 to R52 together, in the form that every step keeps. -/
structure PipelineInvariant (s : State) : Prop where
  shape : Shape s
  queue : RobIsQueue s
  rename : RenameIsYoungest s
  stations : StationsMatchEntries s
  operands : OperandsAreExclusive s
  values : EntryValues s
  tracked : ExecutionIsTracked s
  stamps : StampsRecord s

/-! An idle machine -/

/-- Nothing is in flight: every table is clear (R42, R105). -/
structure Idle (s : State) : Prop where
  shape : Shape s
  available : s.entriesAvailable = s.cfg.robSize
  pointers : s.tail = s.head
  entries : s.rob = List.replicate s.cfg.robSize {}
  stations : ∀ g, s.rs.group g = List.replicate (s.cfg.groupSize g) {}
  tracker : s.fu = []
  queue : s.cdbq = []
  rename : s.regStatus = Vector.replicate 32 {}

/-- What the state is after the whole life of one instruction that was alone in an idle machine: issued in cycle c, its
stamps are c, c + L - 1, c + L, c + L + 1 (R111), `regs`, `mem` and `events` its architectural effect. -/
def State.afterLife (s : State) (lat : Nat) (regs : Vector Int 32) (mem : Memory) (events : List Diagnostic) : State :=
  { s with
    regs := regs
    mem := mem
    diagOut := events
    head := nextIndex s.cfg s.head
    tail := nextIndex s.cfg s.tail
    pc := s.pc + 1
    cycle := s.cycle + lat + 2
    stamp := s.stamp.set s.pc
      { issue := some s.cycle
        executionComplete := some (s.cycle + lat - 1)
        writeResult := some (s.cycle + lat)
        commit := some (s.cycle + lat + 1) } }

/-! What Issue leaves, field by field -/

/-- `s` after the Issue of an instruction of kind `k` into station `id`, whose fields become `q` (R122 to R131): the tail
slot holds `entry`, the tail and the free count move, the issue stamp is the cycle, the destination names the tail slot,
`pc` moves; nothing else changes. -/
def State.afterIssue (s : State) (dest : Option RegIdx) (id : StationId) (q : Station) (entry : RobEntry) : State :=
  { s with
    rob := s.rob.set s.tail entry
    tail := (s.tail + 1) % s.cfg.robSize
    entriesAvailable := s.entriesAvailable - 1
    stamp := s.stamp.set s.pc { s.stampOf s.pc with issue := some s.cycle }
    rs := s.rs.set id q
    regStatus := match dest with
      | some r => s.regStatus.set r { busy := true, robIndex := some s.tail }
      | none => s.regStatus
    pc := s.pc + 1 }

/-- A free slot, a free station and an un-issued instruction (R120): `id` is the station Issue takes. -/
def State.canIssue (s : State) (g : StationGroup) (id : StationId) : Prop :=
  s.pc < s.prog.length ∧ 0 < s.entriesAvailable ∧ s.pickStation g = some id

/-- Register `r` can be captured (R126): a busy rename row names an entry, which is not the free tail slot (R45). -/
def State.readable (s : State) (r : RegIdx) : Prop :=
  (s.rename r).busy = true → (s.rename r).robIndex ≠ none ∧ (s.rename r).robIndex ≠ some s.tail

/-- The operand of register `r` at Issue (R126): the register, else the forwarded value, else the tag with V = 0. -/
def State.operand (s : State) (r : RegIdx) : Operand :=
  let e := s.entry ((s.rename r).robIndex.getD 0)
  if (s.rename r).busy = false then ⟨s.reg r, none⟩
  else if e.busy = true ∧ e.state = .wroteResult ∧ e.valueReady = true then ⟨e.value, none⟩
  else ⟨0, (s.rename r).robIndex⟩

/-! Sequential reference execution -/

/-- The architectural state: registers and memory (R185). -/
structure ArchState where
  regs : Vector Int 32
  mem : Memory
deriving DecidableEq, Repr

/-- The architectural part of a machine state. -/
def State.arch (s : State) : ArchState := ⟨s.regs, s.mem⟩

/-- The address of a LOAD or STORE executed alone (R212). -/
def ArchState.address (c : Config) (x : ArchState) (offset : Int) (base : RegIdx) : Int :=
  wrap c.xlen (offsetValue c offset + x.regs[base])

/-- One instruction executed alone, one at a time (R194, R210, R211). -/
def ArchState.exec (c : Config) (x : ArchState) : Instr → ArchState
  | .add rd rs1 rs2 => { x with regs := x.regs.set rd (addResult c x.regs[rs1] x.regs[rs2]) }
  | .sub rd rs1 rs2 => { x with regs := x.regs.set rd (subResult c x.regs[rs1] x.regs[rs2]) }
  | .mul rd rs1 rs2 => { x with regs := x.regs.set rd (mulResult c x.regs[rs1] x.regs[rs2]) }
  | .div rd rs1 rs2 => { x with regs := x.regs.set rd (divResult c x.regs[rs1] x.regs[rs2]) }
  | .load rd offset base => { x with regs := x.regs.set rd (memRead c x.mem (x.address c offset base)) }
  | .store rsrc offset base => { x with mem := memWrite c x.mem (x.address c offset base) x.regs[rsrc] }

/-- A list of instructions executed one at a time, in order. -/
def ArchState.execAll (c : Config) (x : ArchState) (is : List Instr) : ArchState := is.foldl (ArchState.exec c) x

/-- The memory access of one instruction executed alone: its kind and its address, if that is inside the memory. -/
def ArchState.access (c : Config) (x : ArchState) (i : Instr) : Option (Kind × Int) :=
  let inside (k : Kind) (address : Int) := if addressValid c address then some (k, address) else none
  match i with
  | .load _ offset base => inside .load (x.address c offset base)
  | .store _ offset base => inside .store (x.address c offset base)
  | .add _ _ _ => none
  | .sub _ _ _ => none
  | .mul _ _ _ => none
  | .div _ _ _ => none

/-- The memory accesses of a list of instructions executed one at a time, in order. -/
def ArchState.accesses (c : Config) : ArchState → List Instr → List (Option (Kind × Int))
  | _, [] => []
  | x, i :: rest => x.access c i :: ArchState.accesses c (x.exec c i) rest

/-- No LOAD targets a word that an older STORE targets (R256, first bullet), the addresses being those of sequential
execution. -/
def NoAliasedLoadAfterStore (l : List (Option (Kind × Int))) : Prop :=
  l.Pairwise fun older younger => ∀ a, older = some (.store, a) → younger ≠ some (.load, a)

/-- Every STORE to the word of a younger LOAD committed by the LOAD's Write-Result (R256, second bullet). -/
def StoresCommitBeforeLoads (l : List (Option (Kind × Int))) (t : State) : Prop :=
  ∀ i j a, i < j → l[i]? = some (some (.store, a)) → l[j]? = some (some (.load, a)) →
    ∀ u ∈ (t.stampOf i).commit, ∀ z ∈ (t.stampOf j).writeResult, u ≤ z

end Sys2Proof.Machine
end

