-- ==== Sys2Proof/Certificates/Slice0/Obligations.lean ====
section
/-! DEFINITION. The statements for the provers. -/

open Sys2Proof Sys2Proof.Machine

/-! Encoding -/

/-- R88: decoding the word of a well-formed record gives the record back, at every operand value. R88 says it
at `OFFW` = 16; the other widths are the model's reading of D9 (log entry 13). -/
def Obligations.DecodeOfEncode : Prop :=
  ∀ (offw : Nat) (i : Instr), OffsetWidthFits offw → i.wellFormed offw = true → decode offw (encode offw i) = .instr i

/-- R88: encode is the inverse of decode on the words that are not reserved. R88 says it at `OFFW` = 16; the
other widths are the model's reading of D9 (log entry 13). -/
def Obligations.EncodeOfDecode : Prop :=
  ∀ (offw : Nat) (w : InstrWord) (i : Instr), OffsetWidthFits offw → decode offw w = .instr i →
    i.wellFormed offw = true ∧ encode offw i = w

/-- R89: a word is an instruction of a row exactly when its masked bits are the row's, and then its operands are the
fields of the row's encoding. -/
def Obligations.DecodeMatchesOpcodeMap : Prop :=
  ∀ w : InstrWord,
    let ra : RegIdx := (w.extractLsb' 24 5).toFin
    let rb : RegIdx := (w.extractLsb' 19 5).toFin
    let rc : RegIdx := (w.extractLsb' 14 5).toFin
    let imm : Int := (w.extractLsb' 0 16).toInt
    ((∃ i, decode 16 w = .instr i ∧ i.kind = .add) ↔ w &&& 0xE0003FFF = 0x00000000) ∧
    ((∃ i, decode 16 w = .instr i ∧ i.kind = .sub) ↔ w &&& 0xE0003FFF = 0x20000000) ∧
    ((∃ i, decode 16 w = .instr i ∧ i.kind = .mul) ↔ w &&& 0xE0003FFF = 0x40000000) ∧
    ((∃ i, decode 16 w = .instr i ∧ i.kind = .div) ↔ w &&& 0xE0003FFF = 0x60000000) ∧
    ((∃ i, decode 16 w = .instr i ∧ i.kind = .load) ↔ w &&& 0xE0070000 = 0x80000000) ∧
    ((∃ i, decode 16 w = .instr i ∧ i.kind = .store) ↔ w &&& 0xE0070000 = 0xA0000000) ∧
    (w &&& 0xE0003FFF = 0x00000000 → decode 16 w = .instr (.add ra rb rc)) ∧
    (w &&& 0xE0003FFF = 0x20000000 → decode 16 w = .instr (.sub ra rb rc)) ∧
    (w &&& 0xE0003FFF = 0x40000000 → decode 16 w = .instr (.mul ra rb rc)) ∧
    (w &&& 0xE0003FFF = 0x60000000 → decode 16 w = .instr (.div ra rb rc)) ∧
    (w &&& 0xE0070000 = 0x80000000 → decode 16 w = .instr (.load ra imm rb)) ∧
    (w &&& 0xE0070000 = 0xA0000000 → decode 16 w = .instr (.store ra imm rb))

/-- R90: a word is reserved exactly when `op` is 6 or 7 or a must-be-zero field is not 0. R90 says it at `OFFW` = 16, where
that field of format M is bits 18:16; the other widths are the model's reading of D9 (log entry 13). -/
def Obligations.ReservedWordsExactly : Prop :=
  ∀ (offw : Nat) (w : InstrWord), OffsetWidthFits offw →
    ((∃ why, decode offw w = .reserved why) ↔
      (6 ≤ (w.extractLsb' 29 3).toNat ∨
        ((w.extractLsb' 29 3).toNat ≤ 3 ∧ w.extractLsb' 0 14 ≠ 0#14) ∨
        (4 ≤ (w.extractLsb' 29 3).toNat ∧ (w.extractLsb' 29 3).toNat ≤ 5 ∧
          w.extractLsb' offw (19 - offw) ≠ 0#(19 - offw))))

/-- Words written out from the spec's encodings (95_test_vectors.md section 2.3) decode to what they stand for. -/
def Obligations.SpecWordsDecode : Prop :=
  decode 16 0x0110C000 = .instr (.add 1 2 3) ∧ decode 16 0x24094000 = .instr (.sub 4 1 5) ∧
  decode 16 0x46204000 = .instr (.mul 6 4 1) ∧ decode 16 0x6110C000 = .instr (.div 1 2 3) ∧
  decode 16 0x8100FFEC = .instr (.load 1 (-20) 0) ∧ decode 16 0xA3100004 = .instr (.store 3 4 2) ∧
  decode 16 0x0110C001 = .reserved .zero14 ∧ decode 16 0x82010064 = .reserved .zero3 ∧ decode 16 0xC0000000 = .reserved .op

/-! Reset, load, step -/

/-- R42, R250: a clock edge with `rst` high gives every table its reset value, whatever the state was; at the default
configuration every register is 10, word i of memory is i, and 16 ROB entries are free. That a word of any
address reads as its `MEM_INIT` is the model's memory convention (log entries 3 and 13), and the empty event output is that
of a field of the model's own (log entries 2 and 4). -/
def Obligations.ResetValues : Prop :=
  (∀ s : State, ∃ r : State, clockEdge true s = .next r ∧ r.cfg = s.cfg ∧ r.prog = s.prog ∧ r.diagOut = [] ∧
    (∀ x : RegIdx, r.reg x = s.cfg.regInit ∧ r.rename x = { busy := false, robIndex := none }) ∧
    (∀ i, Memory.read r.cfg r.mem i = wrap s.cfg.xlen ((s.cfg.memInit.lookup i).getD i)) ∧
    (∀ g, (r.rs.group g).length = s.cfg.groupSize g) ∧
    (∀ id, r.station id = { busy := false, op := none, vj := 0, vk := 0, qj := none, qk := none, destRob := none, a := 0, instructionIndex := none }) ∧
    r.rob.length = s.cfg.robSize ∧
    (∀ p, r.entry p = { busy := false, instructionIndex := none, kind := none, state := .empty, destinationRegister := none, value := 0, address := 0, valueReady := false }) ∧
    r.head = 0 ∧ r.tail = 0 ∧ r.entriesAvailable = s.cfg.robSize ∧ r.fu = [] ∧ r.cdbq = [] ∧ r.pc = 0 ∧
    r.cycle = s.cfg.cycleReset ∧ r.stamp.length = s.prog.length ∧
    (∀ i, r.stampOf i = { issue := none, executionComplete := none, writeResult := none, commit := none })) ∧
  (∀ x : RegIdx, State.reset.reg x = 10) ∧
  (∀ i < 1024, Memory.read State.reset.cfg State.reset.mem i = (i : Int)) ∧
  State.reset.entriesAvailable = 16 ∧ State.reset.cycle = 1

/-- R90, R252 (D12, U8): the load refuses a program at its first reserved word and an illegal configuration, and else
gives the reset state of that configuration and program. D16, D22 and U8 name the latencies and pool sizes; the other
clauses of `Config.Legal` are the model's (log entry 10), and so are the load and the index it reports (log entry 5). -/
def Obligations.LoadAcceptsExactlyDecodablePrograms : Prop :=
  ∀ (c : Config) (program : List InstrWord),
    (¬ c.Legal → loadProgram c program = .refused .illegalConfig) ∧
    (c.Legal → (∀ w ∈ program, ∃ i, decode c.offw w = .instr i) → loadProgram c program = .next (State.resetWith c program)) ∧
    (c.Legal → ∀ before w after why, program = before ++ w :: after → (∀ v ∈ before, ∃ i, decode c.offw v = .instr i) →
      decode c.offw w = .reserved why → loadProgram c program = .refused (.reservedWord before.length))

/-- R100: when the word at `pc` decodes to an instruction, a step is Commit, Write-Result, the instruction's Issue,
Execute-Start, Execute-Advance and the increment of the cycle counter, in that order. -/
def Obligations.StepRunsDecodedInstruction : Prop :=
  ∀ (s : State) (w : InstrWord) (i : Instr), s.prog[s.pc]? = some w → decode s.cfg.offw w = .instr i →
    step s = andThen (commit { s with diagOut := [] }) fun s1 =>
      andThen (writeResult s1) fun s2 =>
      andThen (exec i s2) fun s3 =>
      andThen (executeStart s3) fun s4 =>
      andThen (executeAdvance s4) fun s5 =>
      .next { s5 with cycle := s5.cycle + 1 }

/-- R120: with no un-issued instruction left, a step is the other four phases and the cycle counter. -/
def Obligations.StepWithoutInstruction : Prop :=
  ∀ s : State, s.prog.length ≤ s.pc →
    step s = andThen (commit { s with diagOut := [] }) fun s1 =>
      andThen (writeResult s1) fun s2 =>
      andThen (executeStart s2) fun s3 =>
      andThen (executeAdvance s3) fun s4 =>
      .next { s4 with cycle := s4.cycle + 1 }

/-- R133 (D12): Issue refuses a reserved word: it changes nothing but raises `IllegalKind(pc)`; a step leaves `pc` and the
program as they are, so the run never ends. -/
def Obligations.ReservedWordIsRefusedForEver : Prop :=
  ∀ (s : State) (w : InstrWord) (why : ReservedWhy), s.prog[s.pc]? = some w → decode s.cfg.offw w = .reserved why →
    issuePhase s = .next { s with diagOut := s.diagOut ++ [.illegalKind s.pc] } ∧
    ∀ t, step s = .next t → t.pc = s.pc ∧ t.prog = s.prog ∧ .illegalKind s.pc ∈ t.diagOut ∧ t.done = false

/-! Issue -/

/-- R120 to R127, R130 to R132: ADD, SUB, MUL, DIV with a free slot, a free station and readable sources issue. The state
after is given whole, so it is the frame too: no register and no memory word changes. -/
def Obligations.ArithmeticIssues : Prop :=
  ∀ (s : State) (rd rs1 rs2 : RegIdx) (id : StationId), s.readable rs1 → s.readable rs2 →
    let station (k : Kind) : Station :=
      { s.station id with
        busy := true, op := some k, instructionIndex := some s.pc, destRob := some s.tail
        vj := (s.operand rs1).v, qj := (s.operand rs1).q, vk := (s.operand rs2).v, qk := (s.operand rs2).q }
    let entry (k : Kind) : RobEntry :=
      { busy := true, kind := some k, instructionIndex := some s.pc, state := .issued
        destinationRegister := some rd, value := 0, address := 0, valueReady := false }
    (s.canIssue .add id →
      exec (.add rd rs1 rs2) s = .next (s.afterIssue (some rd) id (station .add) (entry .add)) ∧
      exec (.sub rd rs1 rs2) s = .next (s.afterIssue (some rd) id (station .sub) (entry .sub))) ∧
    (s.canIssue .mul id →
      exec (.mul rd rs1 rs2) s = .next (s.afterIssue (some rd) id (station .mul) (entry .mul)) ∧
      exec (.div rd rs1 rs2) s = .next (s.afterIssue (some rd) id (station .div) (entry .div)))

/-- R120 to R128, R130 to R132, R210: a LOAD with a free slot, a free station and a readable base issues; the state after
is given whole. That `A` holds wrap(offset) for a record offset of any size is the model's (log entry 12). -/
def Obligations.LoadIssues : Prop :=
  ∀ (s : State) (rd : RegIdx) (offset : Int) (base : RegIdx) (id : StationId),
    s.canIssue .load id → s.readable base →
    exec (.load rd offset base) s = .next (s.afterIssue (some rd) id
      { s.station id with
        busy := true, op := some .load, instructionIndex := some s.pc, destRob := some s.tail
        a := wrap s.cfg.xlen offset, vk := (s.operand base).v, qk := (s.operand base).q }
      { busy := true, kind := some .load, instructionIndex := some s.pc, state := .issued
        destinationRegister := some rd, value := 0, address := 0, valueReady := false })

/-- R120 to R126, R129, R211: a STORE with a free slot, a free station and readable sources issues; its data goes to its
ROB entry at once when it is known; no register is renamed. The state after is given whole. That `A` holds wrap(offset) for
a record offset of any size is the model's (log entry 12). -/
def Obligations.StoreIssues : Prop :=
  ∀ (s : State) (rsrc : RegIdx) (offset : Int) (base : RegIdx) (id : StationId),
    s.canIssue .store id → s.tail < s.rob.length → s.readable rsrc → s.readable base →
    exec (.store rsrc offset base) s = .next (s.afterIssue none id
      { s.station id with
        busy := true, op := some .store, instructionIndex := some s.pc, destRob := some s.tail
        a := wrap s.cfg.xlen offset
        vj := (s.operand rsrc).v, qj := (s.operand rsrc).q, vk := (s.operand base).v, qk := (s.operand base).q }
      { busy := true, kind := some .store, instructionIndex := some s.pc, state := .issued
        destinationRegister := none
        value := if (s.operand rsrc).q = none then (s.operand rsrc).v else 0
        address := 0, valueReady := (s.operand rsrc).q.isNone })

/-- R121: a structural stall. Without an un-issued instruction, a free ROB slot or a free station of the instruction's
group, Issue changes no field of the state. -/
def Obligations.StructuralStallChangesNothing : Prop :=
  ∀ (i : Instr) (s : State),
    (s.prog.length ≤ s.pc ∨ s.entriesAvailable = 0 ∨
      (∀ id ∈ s.cfg.pickOrder, id.group = groupOf i.kind → id.index < (s.rs.group id.group).length →
        (s.station id).busy = true)) →
    exec i s = .next s

/-- R124 (D6): in the spec's station order, Issue takes the free station of lowest index in the group. -/
def Obligations.IssueTakesLowestFreeStation : Prop :=
  ∀ (s : State) (g : StationGroup) (id : StationId), s.cfg.pickOrder = s.cfg.stationOrder →
    (∀ g', (s.rs.group g').length = s.cfg.groupSize g') →
    (s.pickStation g = some id ↔
      id.group = g ∧ id.index < s.cfg.groupSize g ∧ (s.station id).busy = false ∧
        ∀ k < id.index, (s.station ⟨g, k⟩).busy = true)

/-- R122 to R132, the frame of Issue for each of the six instructions: when `exec` answers a next state, registers, memory,
tracker, queue, head, cycle, program, configuration and events are unchanged, and in the other tables only the tail
slot, the stamps of instruction `pc`, the rename row of the destination and one free station of the group may change. -/
def Obligations.IssueFrame : Prop :=
  ∀ (i : Instr) (s t : State), exec i s = .next t →
    t.regs = s.regs ∧ t.mem = s.mem ∧ t.fu = s.fu ∧ t.cdbq = s.cdbq ∧ t.head = s.head ∧ t.cycle = s.cycle ∧
    t.prog = s.prog ∧ t.cfg = s.cfg ∧ t.diagOut = s.diagOut ∧
    (∀ a, Memory.read t.cfg t.mem a = Memory.read s.cfg s.mem a) ∧
    (∀ r, i.dest ≠ some r → t.rename r = s.rename r) ∧
    (∀ p, p ≠ s.tail → t.entry p = s.entry p) ∧
    (∀ n, n ≠ s.pc → t.stampOf n = s.stampOf n) ∧
    (∀ id, s.pickStation (groupOf i.kind) ≠ some id → t.station id = s.station id)

/-! Execute -/

/-- R140 to R146: Execute-Start dispatches, in scan order, exactly the busy stations without tags whose entry is Issued,
each with its full latency, and moves their entries to Executing. -/
def Obligations.ExecuteStartDispatchesReadyStations : Prop :=
  ∀ s : State, s.cfg.scanOrder.Nodup →
    (∀ id ∈ s.cfg.scanOrder, (s.station id).busy = true →
      (s.station id).op ≠ none ∧ (s.station id).instructionIndex ≠ none ∧ (s.station id).destRob ≠ none) →
    (∀ id ∈ s.cfg.scanOrder, ∀ id' ∈ s.cfg.scanOrder, (s.station id).busy = true → (s.station id').busy = true →
      (s.station id).destRob = (s.station id').destRob → id = id') →
    let ready (id : StationId) : Prop :=
      (s.station id).busy = true ∧ (s.station id).qj = none ∧ (s.station id).qk = none ∧
        ∃ b ∈ (s.station id).destRob, (s.entry b).state = .issued
    ∃ t : State, executeStart s = .next t ∧
      t = { s with fu := t.fu, rob := t.rob } ∧
      (∃ ids : List StationId, ids.Sublist s.cfg.scanOrder ∧ (∀ id ∈ s.cfg.scanOrder, id ∈ ids ↔ ready id) ∧
        t.fu = s.fu ++ ids.map fun id =>
          { rs := id, instructionIndex := (s.station id).instructionIndex.getD 0
            remaining := latency s.cfg ((s.station id).op.getD .add) }) ∧
      (∀ p, (¬ ∃ id ∈ s.cfg.scanOrder, ready id ∧ (s.station id).destRob = some p) → t.entry p = s.entry p) ∧
      (∀ id ∈ s.cfg.scanOrder, ready id → ∀ b ∈ (s.station id).destRob, b < s.rob.length →
        t.entry b =
          if (s.station id).op = some .store ∧ (s.entry b).valueReady = false then
            { s.entry b with state := .executing, value := (s.station id).vj, valueReady := true }
          else { s.entry b with state := .executing })

/-- R147 to R149: Execute-Advance decrements every record, removes the finished ones keeping the others in order, puts their
ROB indices at the back of the queue front to back (the spec's record order), and stamps their instructions. -/
def Obligations.ExecuteAdvanceCountsDown : Prop :=
  ∀ s : State, s.cfg.recordOrder = .insertion → (∀ f ∈ s.fu, (s.station f.rs).destRob ≠ none) →
    ∃ t : State, executeAdvance s = .next t ∧
      t = { s with fu := t.fu, cdbq := t.cdbq, stamp := t.stamp } ∧
      t.fu = (s.fu.filter fun f => decide (1 < f.remaining)).map (fun f => { f with remaining := f.remaining - 1 }) ∧
      t.cdbq = s.cdbq ++ (s.fu.filter fun f => decide (f.remaining ≤ 1)).filterMap (fun f => (s.station f.rs).destRob) ∧
      (∀ n < s.stamp.length, t.stampOf n =
        if ∃ f ∈ s.fu, f.instructionIndex = n ∧ f.remaining ≤ 1 then
          { s.stampOf n with executionComplete := some s.cycle }
        else s.stampOf n)

/-- D7, U2: at every record order Execute-Advance counts down, removes and stamps the same records, and enqueues the finished
ones in that order. The orders other than insertion are the model's (log entry 8). -/
def Obligations.RecordOrderDecidesOnlyTheQueueOrder : Prop :=
  ∀ s : State, (∀ f ∈ s.fu, (s.station f.rs).destRob ≠ none) →
    let finished := s.fu.filter fun f => decide (f.remaining ≤ 1)
    ∃ (t : State) (visited : List FuRecord), executeAdvance s = .next t ∧ visited.Perm finished ∧
      (match s.cfg.recordOrder with
        | .insertion => visited = finished
        | .newestFirst => visited = finished.reverse
        | .byStation order => visited.Pairwise fun f g => order.idxOf f.rs ≤ order.idxOf g.rs
        | .byInstruction => visited.Pairwise fun f g => f.instructionIndex ≤ g.instructionIndex) ∧
      t.cdbq = s.cdbq ++ visited.filterMap (fun f => (s.station f.rs).destRob) ∧
      ∃ u : State, executeAdvance { s with cfg := { s.cfg with recordOrder := .insertion } } = .next u ∧
        t = { u with cfg := s.cfg, cdbq := t.cdbq }


/-- R151: a configured latency of 0 or below behaves exactly like latency 1, within the cycle of its dispatch. -/
def Obligations.LatencyBelowOneActsAsOne : Prop :=
  ∀ s t : State,
    let c : Config := { s.cfg with
      latAdd := max 1 s.cfg.latAdd, latSub := max 1 s.cfg.latSub, latMul := max 1 s.cfg.latMul
      latDiv := max 1 s.cfg.latDiv, latLoad := max 1 s.cfg.latLoad, latStore := max 1 s.cfg.latStore }
    andThen (executeStart s) executeAdvance = .next t →
      andThen (executeStart { s with cfg := c }) executeAdvance = .next { t with cfg := c }

/-! Write-Result -/

/-- R155 to R159, R164, R170, R190 to R193, R210 to R212: Write-Result of the index at the front of the queue. The result
is the instruction's function of the station's operands; it goes to the ROB entry with the address of a LOAD or STORE;
the station is released; registers, memory, rename table, pointers, `pc` and tracker do not change; the events are
exactly the division by zero and the LOAD's range error. The quotient at the rounding `floor` is the model's (log entry
9). -/
def Obligations.WriteResultComputes : Prop :=
  ∀ (s : State) (b : Nat) (rest : List Nat) (id : StationId) (k : Kind) (i : Nat),
    s.cdbq = b :: rest → b < s.rob.length → s.locateStation b = some id →
    (s.station id).op = some k → (s.station id).instructionIndex = some i →
    (∀ q ∈ s.rs.toList, q.busy = true → q.destRob = some b → q.qj ≠ some b) →
    let q := s.station id
    let ea := wrap s.cfg.xlen (q.a + q.vk)
    let inside := 0 ≤ ea ∧ ea < s.cfg.memSize
    let result : Int := match k with
      | .add => wrap s.cfg.xlen (q.vj + q.vk)
      | .sub => wrap s.cfg.xlen (q.vj - q.vk)
      | .mul => wrap s.cfg.xlen (q.vj * q.vk)
      | .div => if q.vk = 0 then 0 else wrap s.cfg.xlen (quotient s.cfg.divRound q.vj q.vk)
      | .load => if inside then Memory.read s.cfg s.mem ea.toNat else 0
      | .store => q.vj
    let events : List Diagnostic := match k with
      | .div => if q.vk = 0 then [.divByZero i] else []
      | .load => if inside then [] else [.loadAddrRange i ea]
      | _ => []
    ∃ t : State, writeResult s = .next t ∧
      t.entry b = { s.entry b with
        value := result, valueReady := true, state := .wroteResult
        address := if k = .load ∨ k = .store then ea else (s.entry b).address } ∧
      t.station id = {} ∧ t.cdbq = rest ∧ t.diagOut = s.diagOut ++ events ∧
      t.stamp = s.stamp.set i { s.stampOf i with writeResult := some s.cycle } ∧
      t.regs = s.regs ∧ t.mem = s.mem ∧ t.regStatus = s.regStatus ∧ t.head = s.head ∧ t.tail = s.tail ∧
      t.entriesAvailable = s.entriesAvailable ∧ t.pc = s.pc ∧ t.fu = s.fu ∧ t.cycle = s.cycle ∧
      t.prog = s.prog ∧ t.cfg = s.cfg

/-- R160 to R163: the broadcast. Every other busy station that holds the tag in Qj, in Qk or in both takes the result
there; every other station is unchanged; a STORE waiting for its data has it mirrored into its own ROB entry; every
other entry is unchanged. -/
def Obligations.BroadcastReachesEveryWaiter : Prop :=
  ∀ (s t : State) (b : Nat) (rest : List Nat) (id : StationId), s.cdbq = b :: rest → b < s.rob.length →
    (s.entry b).busy = true → s.locateStation b = some id →
    (∀ q ∈ s.rs.toList, q.busy = true → q.destRob = some b → q.qj ≠ some b) →
    writeResult s = .next t →
    let result := (t.entry b).value
    (∀ id', id' ≠ id → t.station id' =
      if (s.station id').busy = true then
        { s.station id' with
          vj := if (s.station id').qj = some b then result else (s.station id').vj
          qj := if (s.station id').qj = some b then none else (s.station id').qj
          vk := if (s.station id').qk = some b then result else (s.station id').vk
          qk := if (s.station id').qk = some b then none else (s.station id').qk }
      else s.station id') ∧
    (∀ p < s.rob.length, p ≠ b → t.entry p =
      if ∃ q ∈ s.rs.toList, q.busy = true ∧ q.qj = some b ∧ q.op = some .store ∧ q.destRob = some p then
        { s.entry p with value := result, valueReady := true }
      else s.entry p)

/-- R165 (U5): a popped index that no busy station writes into is a fault. -/
def Obligations.MissingStationFaults : Prop :=
  ∀ (s : State) (b : Nat) (rest : List Nat), s.cdbq = b :: rest →
    (∀ id ∈ s.cfg.stationOrder, (s.station id).busy = true → (s.station id).destRob ≠ some b) →
    writeResult s = .fault (.missingStation b)

/-! Commit -/

/-- R177 to R179, R182: Commit of a non-STORE. The state after is given whole: one register is written, its rename row is
cleared only if it still names the head, the head slot is freed. -/
def Obligations.CommitWritesRegister : Prop :=
  ∀ (s : State) (i : Nat) (k : Kind) (r : RegIdx), s.entriesAvailable < s.cfg.robSize →
    (s.entry s.head).busy = true → (s.entry s.head).state = .wroteResult →
    (s.entry s.head).instructionIndex = some i → (s.entry s.head).kind = some k → k ≠ .store →
    (s.entry s.head).destinationRegister = some r →
    commit s = .next { s with
      stamp := s.stamp.set i { s.stampOf i with commit := some s.cycle }
      regs := s.regs.set r (s.entry s.head).value
      regStatus :=
        if (s.rename r).busy = true ∧ (s.rename r).robIndex = some s.head
        then s.regStatus.set r { busy := false, robIndex := none } else s.regStatus
      rob := s.rob.set s.head {}
      head := (s.head + 1) % s.cfg.robSize
      entriesAvailable := s.entriesAvailable + 1 }

/-- R177, R180 to R182: Commit of a STORE whose data is ready. The word at its address is written if the address is in
range, every other word reads as before; out of range nothing is written and `StoreAddrRange` is raised; either way the
slot is freed and no register changes. The canonical form of the memory is the model's own convention (log entry 3). -/
def Obligations.CommitWritesMemory : Prop :=
  ∀ (s : State) (i : Nat), Memory.wf s.cfg s.mem = true → s.entriesAvailable < s.cfg.robSize →
    (s.entry s.head).busy = true → (s.entry s.head).state = .wroteResult →
    (s.entry s.head).instructionIndex = some i → (s.entry s.head).kind = some .store →
    (s.entry s.head).valueReady = true →
    let ea := (s.entry s.head).address
    let inside := 0 ≤ ea ∧ ea < s.cfg.memSize
    ∃ t : State, commit s = .next t ∧
      t = { s with
        stamp := s.stamp.set i { s.stampOf i with commit := some s.cycle }
        mem := t.mem
        diagOut := if inside then s.diagOut else s.diagOut ++ [.storeAddrRange i ea]
        rob := s.rob.set s.head {}
        head := (s.head + 1) % s.cfg.robSize
        entriesAvailable := s.entriesAvailable + 1 } ∧
      Memory.wf t.cfg t.mem = true ∧
      (inside → Memory.read t.cfg t.mem ea.toNat = (s.entry s.head).value) ∧
      (∀ a : Nat, ¬ (inside ∧ ea = (a : Int)) → Memory.read t.cfg t.mem a = Memory.read s.cfg s.mem a) ∧
      (¬ inside → t.mem = s.mem)

/-- R175, R176: Commit changes nothing when the ROB is empty, the head has not written its result, or it is a STORE whose
data is pending. -/
def Obligations.CommitWaitsForHead : Prop :=
  ∀ s : State,
    (s.cfg.robSize ≤ s.entriesAvailable ∨ (s.entry s.head).busy = false ∨ (s.entry s.head).state ≠ .wroteResult ∨
      ((s.entry s.head).kind = some .store ∧ (s.entry s.head).valueReady = false)) →
    commit s = .next s

/-! The whole step -/

/-- R102: every step increments the cycle counter by exactly 1. -/
def Obligations.EveryStepCountsOneCycle : Prop :=
  ∀ s t : State, step s = .next t → t.cycle = s.cycle + 1

/-- R44: no step writes the program store; the configuration is fixed for the run. -/
def Obligations.StepKeepsProgramAndConfiguration : Prop :=
  ∀ s t : State, step s = .next t → t.prog = s.prog ∧ t.cfg = s.cfg

/-- R23, R131: a step leaves `pc` or adds 1, and adds 1 only when it issues the instruction at `pc`, which then has its issue
stamp and the old tail slot. -/
def Obligations.PcMovesOnlyByIssue : Prop :=
  ∀ s t : State, PipelineInvariant s → step s = .next t →
    t.pc = s.pc ∨
    (t.pc = s.pc + 1 ∧ (∃ w i, s.prog[s.pc]? = some w ∧ decode s.cfg.offw w = .instr i) ∧
      (t.stampOf s.pc).issue = some s.cycle ∧ (t.entry s.tail).instructionIndex = some s.pc ∧
      t.tail = (s.tail + 1) % s.cfg.robSize)

/-- R107: at most one architectural location changes in a step: the register the ROB head writes, or the memory word a
STORE at the head addresses. -/
def Obligations.OneArchitecturalUpdatePerStep : Prop :=
  ∀ s t : State, step s = .next t →
    (t.mem = s.mem ∧ ∀ r : RegIdx, (s.entry s.head).destinationRegister ≠ some r → t.reg r = s.reg r) ∨
    (t.regs = s.regs ∧ (s.entry s.head).kind = some .store ∧
      ∀ a : Nat, (s.entry s.head).address ≠ (a : Int) → Memory.read t.cfg t.mem a = Memory.read s.cfg s.mem a)

/-- R183: only the instruction at the ROB head gets a commit stamp in a step, with the value of the cycle. -/
def Obligations.OnlyHeadCommits : Prop :=
  ∀ (s t : State) (n : Nat), step s = .next t → (t.stampOf n).commit ≠ (s.stampOf n).commit →
    (s.entry s.head).instructionIndex = some n ∧ (s.entry s.head).state = .wroteResult ∧
      (t.stampOf n).commit = some s.cycle

/-- R155, R168: the CDB queue is a FIFO: a step takes at most the front index away and adds new ones at the back. -/
def Obligations.CdbQueueIsFifo : Prop :=
  ∀ s t : State, step s = .next t → ∃ new, t.cdbq = s.cdbq.tail ++ new

/-- R26: no condition and no computed value depends on the cycle counter or on a stamp: a step from a state with another
cycle and other stamps gives the same state but for its cycle and stamps. -/
def Obligations.TimeIsNotRead : Prop :=
  ∀ (s t : State) (cycle : Nat) (stamp : List Stamps), step s = .next t →
    ∃ t' : State, step { s with cycle := cycle, stamp := stamp } = .next t' ∧
      { t' with cycle := 0, stamp := [] } = { t with cycle := 0, stamp := [] }

/-- R239: a step raises at most two events, Commit's before Write-Result's, unless the word at `pc` is reserved. -/
def Obligations.AtMostTwoEventsPerStep : Prop :=
  ∀ s t : State, step s = .next t →
    (∀ w why, s.prog[s.pc]? = some w → decode s.cfg.offw w ≠ .reserved why) →
    ∃ c w : List Diagnostic, t.diagOut = c ++ w ∧ c.length ≤ 1 ∧ w.length ≤ 1 ∧
      (∀ d ∈ c, ∃ i ea, d = .storeAddrRange i ea) ∧
      (∀ d ∈ w, (∃ i, d = .divByZero i) ∨ ∃ i ea, d = .loadAddrRange i ea)

/-- R69: a LOAD that writes its result in a step reads the memory as that step's Commit leaves it: it sees a STORE that
commits in the same step, and no STORE that is still in flight. -/
def Obligations.LoadReadsCommittedMemory : Prop :=
  ∀ (s t : State) (b : Nat) (rest : List Nat) (id : StationId), PipelineInvariant s → Memory.wf s.cfg s.mem = true →
    step s = .next t → s.cdbq = b :: rest → id ∈ s.cfg.stationOrder →
    (s.station id).destRob = some b → (s.station id).op = some .load →
    let ea := wrap s.cfg.xlen ((s.station id).a + (s.station id).vk)
    let h := s.entry s.head
    0 ≤ ea → ea < s.cfg.memSize →
    (t.entry b).state = .wroteResult ∧ (t.entry b).address = ea ∧
    ((h.kind = some .store ∧ h.state = .wroteResult ∧ h.address = ea) → (t.entry b).value = h.value) ∧
    (¬ (h.kind = some .store ∧ h.state = .wroteResult ∧ h.address = ea) →
      (t.entry b).value = Memory.read s.cfg s.mem ea.toNat)

/-- R101 (a): when the ROB is full and its head commits, Issue succeeds in the same step and reuses that slot. -/
def Obligations.FullRobReusesCommittedSlot : Prop :=
  ∀ (s : State) (w : InstrWord) (i : Instr) (id : StationId), PipelineInvariant s → s.entriesAvailable = 0 →
    (s.entry s.head).state = .wroteResult → s.prog[s.pc]? = some w → decode s.cfg.offw w = .instr i →
    id ∈ s.cfg.stationOrder → id.group = groupOf i.kind → (s.station id).busy = false →
    ∃ t : State, step s = .next t ∧ t.pc = s.pc + 1 ∧ t.entriesAvailable = 0 ∧
      t.head = (s.head + 1) % s.cfg.robSize ∧ t.tail = t.head ∧
      (t.entry s.head).instructionIndex = some s.pc ∧ (t.entry s.head).kind = some i.kind

/-! Invariants -/

/-- R42, R45 to R52: the reset state of every legal configuration and program meets the pipeline invariant. -/
def Obligations.ResetMeetsPipelineInvariant : Prop :=
  (∀ (c : Config) (program : List InstrWord), c.Legal → PipelineInvariant (State.resetWith c program)) ∧
  PipelineInvariant State.reset

/-- R34, R45 to R52: every step keeps the pipeline invariant, from every state that meets it. -/
def Obligations.StepKeepsPipelineInvariant : Prop :=
  ∀ s t : State, PipelineInvariant s → step s = .next t → PipelineInvariant t

/-- R165, R234: from a state that meets the pipeline invariant no step stops: no internal invariant violation occurs. -/
def Obligations.StepNeverStops : Prop :=
  ∀ s : State, PipelineInvariant s → ∃ t, step s = .next t

/-- The memory's canonical form, the model's own convention (log entry 3): reset has it and every step keeps it. -/
def Obligations.StepKeepsCanonicalMemory : Prop :=
  (∀ (c : Config) (program : List InstrWord), Memory.wf c (State.resetWith c program).mem = true) ∧
  ∀ s t : State, Memory.wf s.cfg s.mem = true → step s = .next t → Memory.wf t.cfg t.mem = true

/-- R20, R27, R30, R33, R195: every data value stays representable in `XLEN` bits; reset has it and every step keeps it. -/
def Obligations.StepKeepsDataInRange : Prop :=
  (∀ (c : Config) (program : List InstrWord), c.Legal → DataInRange (State.resetWith c program)) ∧
  ∀ s t : State, 1 ≤ s.cfg.xlen → DataInRange s → step s = .next t → DataInRange t

/-- R46: a ROB entry is named by at most one busy rename row, a STORE's entry by none. -/
def Obligations.AtMostOneRenamePerProducer : Prop :=
  ∀ s : State, PipelineInvariant s →
    (∀ r r' : RegIdx, (s.rename r).busy = true → (s.rename r').busy = true →
      (s.rename r).robIndex = (s.rename r').robIndex → r = r') ∧
    (∀ (r : RegIdx) (p : Nat), (s.entry p).kind = some .store → (s.rename r).robIndex ≠ some p)

/-- R169: no station holds the ROB index of a STORE as a tag, so its broadcast reaches nobody. -/
def Obligations.StoreBroadcastReachesNobody : Prop :=
  ∀ (s : State) (p : Nat) (id : StationId), PipelineInvariant s → (s.entry p).kind = some .store →
    id ∈ s.cfg.stationOrder → (s.station id).qj ≠ some p ∧ (s.station id).qk ≠ some p

/-- R55: each tracker record and each element of the CDB queue names a busy station of its own, so both together hold at
most one element per station, and at most `ROB_SIZE` instructions are in flight. -/
def Obligations.TrackerAndQueueFitStations : Prop :=
  ∀ s : State, PipelineInvariant s →
    (∃ ids : List StationId, ids.map (fun id => (s.station id).destRob) = s.cdbq.map some ∧
      (s.fu.map FuRecord.rs ++ ids).Nodup ∧
      ∀ id ∈ s.fu.map FuRecord.rs ++ ids, id ∈ s.cfg.stationOrder ∧ (s.station id).busy = true) ∧
    s.fu.length + s.cdbq.length ≤ s.cfg.stationCount ∧ (s.rob.filter RobEntry.busy).length ≤ s.cfg.robSize ∧
      (s.rob.filter RobEntry.busy).length = s.inFlight

/-- R104: `done` is the five conjuncts of the termination predicate; in a state that meets the pipeline invariant the
first of them, every instruction has its commit stamp, implies the other four. -/
def Obligations.DoneIsAllCommitted : Prop :=
  (∀ s : State, s.done = true ↔
    (∀ i < s.prog.length, (s.stampOf i).commit ≠ none) ∧ s.entriesAvailable = s.cfg.robSize ∧ s.fu = [] ∧ s.cdbq = [] ∧
      s.pc = s.prog.length) ∧
  (∀ s : State, PipelineInvariant s → (∀ i < s.prog.length, (s.stampOf i).commit ≠ none) → s.done = true) ∧
  (∀ c : Config, (State.resetWith c []).done = true)

/-- R105 (D21): a step taken after `done` changes only the cycle counter (and empties the diagnostic output). -/
def Obligations.StepAfterDoneOnlyCounts : Prop :=
  ∀ s : State, PipelineInvariant s → s.done = true →
    step s = .next { s with cycle := s.cycle + 1, diagOut := [] }

/-! The life of one instruction -/

/-- R111, R190 to R194: an ADD, SUB, MUL or DIV alone in an idle machine has its whole effect in latency + 2 steps: the
destination register holds the result, the stamps are the minimal ones, and nothing else of the state has changed but
the pointers, `pc` and the cycle counter. The quotient at the rounding `floor` is the model's (log entry 9). -/
def Obligations.ArithmeticLife : Prop :=
  ∀ (s : State) (w : InstrWord) (rd rs1 rs2 : RegIdx), Idle s → s.prog[s.pc]? = some w → s.pc + 1 = s.prog.length →
    let life (lat : Int) (v : Int) : Prop :=
      Host.Core.run Sys2Proof.core (lat.toNat + 2) s = .next (s.afterLife lat.toNat (s.regs.set rd v) s.mem [])
    (decode s.cfg.offw w = .instr (.add rd rs1 rs2) → life s.cfg.latAdd (wrap s.cfg.xlen (s.reg rs1 + s.reg rs2))) ∧
    (decode s.cfg.offw w = .instr (.sub rd rs1 rs2) → life s.cfg.latSub (wrap s.cfg.xlen (s.reg rs1 - s.reg rs2))) ∧
    (decode s.cfg.offw w = .instr (.mul rd rs1 rs2) → life s.cfg.latMul (wrap s.cfg.xlen (s.reg rs1 * s.reg rs2))) ∧
    (decode s.cfg.offw w = .instr (.div rd rs1 rs2) → life s.cfg.latDiv
      (if s.reg rs2 = 0 then 0 else wrap s.cfg.xlen (quotient s.cfg.divRound (s.reg rs1) (s.reg rs2))))

/-- R111, R210, R212: a LOAD alone in an idle machine puts the addressed word, or 0 outside the memory, into its
destination in latency + 2 steps, and changes nothing else. -/
def Obligations.LoadLife : Prop :=
  ∀ (s : State) (w : InstrWord) (rd : RegIdx) (offset : Int) (base : RegIdx), Idle s → s.prog[s.pc]? = some w →
    s.pc + 1 = s.prog.length → decode s.cfg.offw w = .instr (.load rd offset base) →
    let ea := wrap s.cfg.xlen (offset + s.reg base)
    Host.Core.run Sys2Proof.core (s.cfg.latLoad.toNat + 2) s = .next (s.afterLife s.cfg.latLoad.toNat
      (s.regs.set rd (if 0 ≤ ea ∧ ea < s.cfg.memSize then Memory.read s.cfg s.mem ea.toNat else 0)) s.mem [])

/-- R111, R180, R181, R211, R212: a STORE alone in an idle machine writes its data to the addressed word at its Commit, or
nothing but the event outside the memory, and changes no register. -/
def Obligations.StoreLife : Prop :=
  ∀ (s : State) (w : InstrWord) (rsrc : RegIdx) (offset : Int) (base : RegIdx), Idle s → Memory.wf s.cfg s.mem = true →
    s.prog[s.pc]? = some w → s.pc + 1 = s.prog.length → decode s.cfg.offw w = .instr (.store rsrc offset base) →
    let ea := wrap s.cfg.xlen (offset + s.reg base)
    let inside := 0 ≤ ea ∧ ea < s.cfg.memSize
    ∃ mem : Memory,
      Host.Core.run Sys2Proof.core (s.cfg.latStore.toNat + 2) s = .next (s.afterLife s.cfg.latStore.toNat s.regs mem
        (if inside then [] else [.storeAddrRange s.pc ea])) ∧
      (inside → Memory.read s.cfg mem ea.toNat = s.reg rsrc) ∧
      (∀ a : Nat, ¬ (inside ∧ ea = (a : Int)) → Memory.read s.cfg mem a = Memory.read s.cfg s.mem a)

/-- R213: a LOAD followed by a STORE of the loaded value copies a memory word, whatever the two latencies: the STORE waits
for the LOAD's broadcast. The STORE's base may be the loaded register too. With a ROB of one entry the STORE issues only
when the LOAD commits, one cycle later than else. -/
def Obligations.LoadThenStoreCopiesWord : Prop :=
  ∀ (s : State) (w w' : InstrWord) (rd base base' : RegIdx) (offset offset' : Int), Idle s →
    Memory.wf s.cfg s.mem = true →
    s.prog[s.pc]? = some w → s.prog[s.pc + 1]? = some w' → s.pc + 2 = s.prog.length →
    decode s.cfg.offw w = .instr (.load rd offset base) → decode s.cfg.offw w' = .instr (.store rd offset' base') →
    let a := wrap s.cfg.xlen (offset + s.reg base)
    let loaded := Memory.read s.cfg s.mem a.toNat
    let b := wrap s.cfg.xlen (offset' + if base' = rd then loaded else s.reg base')
    0 ≤ a → a < s.cfg.memSize → 0 ≤ b → b < s.cfg.memSize →
    ∃ t : State,
      Host.Core.run Sys2Proof.core
        (s.cfg.latLoad.toNat + s.cfg.latStore.toNat + if s.cfg.robSize = 1 then 3 else 2) s = .next t ∧ Idle t ∧
      Memory.read t.cfg t.mem b.toNat = loaded ∧
      (∀ x : Nat, b ≠ (x : Int) → Memory.read t.cfg t.mem x = Memory.read s.cfg s.mem x) ∧
      t.reg rd = loaded ∧ (∀ r, r ≠ rd → t.reg r = s.reg r)


/-! Headline results -/

/-- R185, R194, R254, R255, R256 (first bullet): out-of-order execution is invisible. For every legal configuration and every
program in which no LOAD targets a word that an older STORE targets, when the run is done the registers and the memory are
those of executing the program one instruction at a time. -/
def Obligations.RunEndsAsSequentialExecution : Prop :=
  ∀ (c : Config) (program : List InstrWord) (is : List Instr) (n : Nat) (t : State), c.Legal →
    program.map (decode c.offw) = is.map Decoded.instr →
    NoAliasedLoadAfterStore ((State.resetWith c program).arch.accesses c is) →
    Host.Core.run Sys2Proof.core n (State.resetWith c program) = .next t → t.done = true →
    t.arch = (State.resetWith c program).arch.execAll c is

/-- R256 (second bullet), R69: the stale LOAD is the only hazard. Whatever the program, when the run is done and every STORE
to the word of a younger LOAD has committed by the LOAD's Write-Result, the registers and the memory are those of
executing the program one instruction at a time. -/
def Obligations.StaleLoadIsTheOnlyHazard : Prop :=
  ∀ (c : Config) (program : List InstrWord) (is : List Instr) (n : Nat) (t : State), c.Legal →
    program.map (decode c.offw) = is.map Decoded.instr →
    Host.Core.run Sys2Proof.core n (State.resetWith c program) = .next t → t.done = true →
    StoresCommitBeforeLoads ((State.resetWith c program).arch.accesses c is) t →
    t.arch = (State.resetWith c program).arch.execAll c is


/-- R110: every program of decodable words is done after at most 1 + N * (largest latency + N_RS) steps, at every legal
configuration (the bound the spec derives in place of the source's). -/
def Obligations.EveryProgramTerminates : Prop :=
  ∀ (c : Config) (program : List InstrWord) (maxLatency : Nat), c.Legal → (∀ k : Kind, latency c k ≤ maxLatency) →
    (∀ w ∈ program, ∃ i, decode c.offw w = .instr i) →
    ∃ n ≤ 1 + program.length * (maxLatency + c.stationCount), ∃ t : State,
      Host.Core.run Sys2Proof.core n (State.resetWith c program) = .next t ∧ t.done = true

/-! Arithmetic -/

/-- R9: `wrap(z)` is the one value in [INT_MIN, INT_MAX] congruent to `z` modulo 2^XLEN; a value already there is unchanged
(R6). -/
def Obligations.WrapIsTheRepresentable : Prop :=
  ∀ (xlen : Nat) (z : Int), 1 ≤ xlen →
    InRange xlen (wrap xlen z) ∧ ((2 ^ xlen : Nat) : Int) ∣ wrap xlen z - z ∧
    (∀ v : Int, InRange xlen v → ((2 ^ xlen : Nat) : Int) ∣ v - z → v = wrap xlen z) ∧
    (InRange xlen z → wrap xlen z = z)

/-- R193, R196 (D2): division rounds toward zero; only INT_MIN / -1 leaves the range, and wraps to INT_MIN; a zero divisor
gives 0. -/
def Obligations.DivisionRoundsTowardZero : Prop :=
  ∀ (c : Config) (x y : Int), c.divRound = .towardZero → 2 ≤ c.xlen → InRange c.xlen x → InRange c.xlen y →
    (y = 0 → divResult c x y = 0) ∧
    (y ≠ 0 → ¬ (x = intMin c.xlen ∧ y = -1) →
      ∃ r : Int, x = divResult c x y * y + r ∧ |r| < |y| ∧ (r = 0 ∨ (0 < r ∧ 0 < x) ∨ (r < 0 ∧ x < 0))) ∧
    divResult c (intMin c.xlen) (-1) = intMin c.xlen
end

