-- ==== Sys2Proof/Laws/State.lean ====
section
/-! SUPPORT. The fields of the state after each named update: one lemma per field per update, true by rfl. -/

namespace Sys2Proof.Machine

variable (s : State)


/-! setStation -/

@[simp] theorem setStation_cfg (id : StationId) (q : Station) : (s.setStation id q).cfg = s.cfg := rfl
@[simp] theorem setStation_prog (id : StationId) (q : Station) : (s.setStation id q).prog = s.prog := rfl
@[simp] theorem setStation_diagOut (id : StationId) (q : Station) : (s.setStation id q).diagOut = s.diagOut := rfl
@[simp] theorem setStation_regs (id : StationId) (q : Station) : (s.setStation id q).regs = s.regs := rfl
@[simp] theorem setStation_mem (id : StationId) (q : Station) : (s.setStation id q).mem = s.mem := rfl
@[simp] theorem setStation_regStatus (id : StationId) (q : Station) : (s.setStation id q).regStatus = s.regStatus := rfl
@[simp] theorem setStation_rs (id : StationId) (q : Station) : (s.setStation id q).rs = s.rs.set id q := rfl
@[simp] theorem setStation_rob (id : StationId) (q : Station) : (s.setStation id q).rob = s.rob := rfl
@[simp] theorem setStation_head (id : StationId) (q : Station) : (s.setStation id q).head = s.head := rfl
@[simp] theorem setStation_tail (id : StationId) (q : Station) : (s.setStation id q).tail = s.tail := rfl
@[simp] theorem setStation_entriesAvailable (id : StationId) (q : Station) : (s.setStation id q).entriesAvailable = s.entriesAvailable := rfl
@[simp] theorem setStation_fu (id : StationId) (q : Station) : (s.setStation id q).fu = s.fu := rfl
@[simp] theorem setStation_cdbq (id : StationId) (q : Station) : (s.setStation id q).cdbq = s.cdbq := rfl
@[simp] theorem setStation_pc (id : StationId) (q : Station) : (s.setStation id q).pc = s.pc := rfl
@[simp] theorem setStation_cycle (id : StationId) (q : Station) : (s.setStation id q).cycle = s.cycle := rfl
@[simp] theorem setStation_stamp (id : StationId) (q : Station) : (s.setStation id q).stamp = s.stamp := rfl

/-! releaseStation -/

@[simp] theorem releaseStation_cfg (id : StationId) : (s.releaseStation id).cfg = s.cfg := rfl
@[simp] theorem releaseStation_prog (id : StationId) : (s.releaseStation id).prog = s.prog := rfl
@[simp] theorem releaseStation_diagOut (id : StationId) : (s.releaseStation id).diagOut = s.diagOut := rfl
@[simp] theorem releaseStation_regs (id : StationId) : (s.releaseStation id).regs = s.regs := rfl
@[simp] theorem releaseStation_mem (id : StationId) : (s.releaseStation id).mem = s.mem := rfl
@[simp] theorem releaseStation_regStatus (id : StationId) : (s.releaseStation id).regStatus = s.regStatus := rfl
@[simp] theorem releaseStation_rs (id : StationId) : (s.releaseStation id).rs = s.rs.set id {} := rfl
@[simp] theorem releaseStation_rob (id : StationId) : (s.releaseStation id).rob = s.rob := rfl
@[simp] theorem releaseStation_head (id : StationId) : (s.releaseStation id).head = s.head := rfl
@[simp] theorem releaseStation_tail (id : StationId) : (s.releaseStation id).tail = s.tail := rfl
@[simp] theorem releaseStation_entriesAvailable (id : StationId) : (s.releaseStation id).entriesAvailable = s.entriesAvailable := rfl
@[simp] theorem releaseStation_fu (id : StationId) : (s.releaseStation id).fu = s.fu := rfl
@[simp] theorem releaseStation_cdbq (id : StationId) : (s.releaseStation id).cdbq = s.cdbq := rfl
@[simp] theorem releaseStation_pc (id : StationId) : (s.releaseStation id).pc = s.pc := rfl
@[simp] theorem releaseStation_cycle (id : StationId) : (s.releaseStation id).cycle = s.cycle := rfl
@[simp] theorem releaseStation_stamp (id : StationId) : (s.releaseStation id).stamp = s.stamp := rfl

/-! setEntry -/

@[simp] theorem setEntry_cfg (p : Nat) (e : RobEntry) : (s.setEntry p e).cfg = s.cfg := rfl
@[simp] theorem setEntry_prog (p : Nat) (e : RobEntry) : (s.setEntry p e).prog = s.prog := rfl
@[simp] theorem setEntry_diagOut (p : Nat) (e : RobEntry) : (s.setEntry p e).diagOut = s.diagOut := rfl
@[simp] theorem setEntry_regs (p : Nat) (e : RobEntry) : (s.setEntry p e).regs = s.regs := rfl
@[simp] theorem setEntry_mem (p : Nat) (e : RobEntry) : (s.setEntry p e).mem = s.mem := rfl
@[simp] theorem setEntry_regStatus (p : Nat) (e : RobEntry) : (s.setEntry p e).regStatus = s.regStatus := rfl
@[simp] theorem setEntry_rs (p : Nat) (e : RobEntry) : (s.setEntry p e).rs = s.rs := rfl
@[simp] theorem setEntry_rob (p : Nat) (e : RobEntry) : (s.setEntry p e).rob = s.rob.set p e := rfl
@[simp] theorem setEntry_head (p : Nat) (e : RobEntry) : (s.setEntry p e).head = s.head := rfl
@[simp] theorem setEntry_tail (p : Nat) (e : RobEntry) : (s.setEntry p e).tail = s.tail := rfl
@[simp] theorem setEntry_entriesAvailable (p : Nat) (e : RobEntry) : (s.setEntry p e).entriesAvailable = s.entriesAvailable := rfl
@[simp] theorem setEntry_fu (p : Nat) (e : RobEntry) : (s.setEntry p e).fu = s.fu := rfl
@[simp] theorem setEntry_cdbq (p : Nat) (e : RobEntry) : (s.setEntry p e).cdbq = s.cdbq := rfl
@[simp] theorem setEntry_pc (p : Nat) (e : RobEntry) : (s.setEntry p e).pc = s.pc := rfl
@[simp] theorem setEntry_cycle (p : Nat) (e : RobEntry) : (s.setEntry p e).cycle = s.cycle := rfl
@[simp] theorem setEntry_stamp (p : Nat) (e : RobEntry) : (s.setEntry p e).stamp = s.stamp := rfl

/-! advanceTail -/

@[simp] theorem advanceTail_cfg : (s.advanceTail).cfg = s.cfg := rfl
@[simp] theorem advanceTail_prog : (s.advanceTail).prog = s.prog := rfl
@[simp] theorem advanceTail_diagOut : (s.advanceTail).diagOut = s.diagOut := rfl
@[simp] theorem advanceTail_regs : (s.advanceTail).regs = s.regs := rfl
@[simp] theorem advanceTail_mem : (s.advanceTail).mem = s.mem := rfl
@[simp] theorem advanceTail_regStatus : (s.advanceTail).regStatus = s.regStatus := rfl
@[simp] theorem advanceTail_rs : (s.advanceTail).rs = s.rs := rfl
@[simp] theorem advanceTail_rob : (s.advanceTail).rob = s.rob := rfl
@[simp] theorem advanceTail_head : (s.advanceTail).head = s.head := rfl
@[simp] theorem advanceTail_tail : (s.advanceTail).tail = nextIndex s.cfg s.tail := rfl
@[simp] theorem advanceTail_entriesAvailable : (s.advanceTail).entriesAvailable = s.entriesAvailable - 1 := rfl
@[simp] theorem advanceTail_fu : (s.advanceTail).fu = s.fu := rfl
@[simp] theorem advanceTail_cdbq : (s.advanceTail).cdbq = s.cdbq := rfl
@[simp] theorem advanceTail_pc : (s.advanceTail).pc = s.pc := rfl
@[simp] theorem advanceTail_cycle : (s.advanceTail).cycle = s.cycle := rfl
@[simp] theorem advanceTail_stamp : (s.advanceTail).stamp = s.stamp := rfl

/-! advanceHead -/

@[simp] theorem advanceHead_cfg : (s.advanceHead).cfg = s.cfg := rfl
@[simp] theorem advanceHead_prog : (s.advanceHead).prog = s.prog := rfl
@[simp] theorem advanceHead_diagOut : (s.advanceHead).diagOut = s.diagOut := rfl
@[simp] theorem advanceHead_regs : (s.advanceHead).regs = s.regs := rfl
@[simp] theorem advanceHead_mem : (s.advanceHead).mem = s.mem := rfl
@[simp] theorem advanceHead_regStatus : (s.advanceHead).regStatus = s.regStatus := rfl
@[simp] theorem advanceHead_rs : (s.advanceHead).rs = s.rs := rfl
@[simp] theorem advanceHead_rob : (s.advanceHead).rob = s.rob := rfl
@[simp] theorem advanceHead_head : (s.advanceHead).head = nextIndex s.cfg s.head := rfl
@[simp] theorem advanceHead_tail : (s.advanceHead).tail = s.tail := rfl
@[simp] theorem advanceHead_entriesAvailable : (s.advanceHead).entriesAvailable = s.entriesAvailable + 1 := rfl
@[simp] theorem advanceHead_fu : (s.advanceHead).fu = s.fu := rfl
@[simp] theorem advanceHead_cdbq : (s.advanceHead).cdbq = s.cdbq := rfl
@[simp] theorem advanceHead_pc : (s.advanceHead).pc = s.pc := rfl
@[simp] theorem advanceHead_cycle : (s.advanceHead).cycle = s.cycle := rfl
@[simp] theorem advanceHead_stamp : (s.advanceHead).stamp = s.stamp := rfl

/-! setReg -/

@[simp] theorem setReg_cfg (r : RegIdx) (v : Int) : (s.setReg r v).cfg = s.cfg := rfl
@[simp] theorem setReg_prog (r : RegIdx) (v : Int) : (s.setReg r v).prog = s.prog := rfl
@[simp] theorem setReg_diagOut (r : RegIdx) (v : Int) : (s.setReg r v).diagOut = s.diagOut := rfl
@[simp] theorem setReg_regs (r : RegIdx) (v : Int) : (s.setReg r v).regs = s.regs.set r v := rfl
@[simp] theorem setReg_mem (r : RegIdx) (v : Int) : (s.setReg r v).mem = s.mem := rfl
@[simp] theorem setReg_regStatus (r : RegIdx) (v : Int) : (s.setReg r v).regStatus = s.regStatus := rfl
@[simp] theorem setReg_rs (r : RegIdx) (v : Int) : (s.setReg r v).rs = s.rs := rfl
@[simp] theorem setReg_rob (r : RegIdx) (v : Int) : (s.setReg r v).rob = s.rob := rfl
@[simp] theorem setReg_head (r : RegIdx) (v : Int) : (s.setReg r v).head = s.head := rfl
@[simp] theorem setReg_tail (r : RegIdx) (v : Int) : (s.setReg r v).tail = s.tail := rfl
@[simp] theorem setReg_entriesAvailable (r : RegIdx) (v : Int) : (s.setReg r v).entriesAvailable = s.entriesAvailable := rfl
@[simp] theorem setReg_fu (r : RegIdx) (v : Int) : (s.setReg r v).fu = s.fu := rfl
@[simp] theorem setReg_cdbq (r : RegIdx) (v : Int) : (s.setReg r v).cdbq = s.cdbq := rfl
@[simp] theorem setReg_pc (r : RegIdx) (v : Int) : (s.setReg r v).pc = s.pc := rfl
@[simp] theorem setReg_cycle (r : RegIdx) (v : Int) : (s.setReg r v).cycle = s.cycle := rfl
@[simp] theorem setReg_stamp (r : RegIdx) (v : Int) : (s.setReg r v).stamp = s.stamp := rfl

/-! setRename -/

@[simp] theorem setRename_cfg (r : RegIdx) (x : RegStatus) : (s.setRename r x).cfg = s.cfg := rfl
@[simp] theorem setRename_prog (r : RegIdx) (x : RegStatus) : (s.setRename r x).prog = s.prog := rfl
@[simp] theorem setRename_diagOut (r : RegIdx) (x : RegStatus) : (s.setRename r x).diagOut = s.diagOut := rfl
@[simp] theorem setRename_regs (r : RegIdx) (x : RegStatus) : (s.setRename r x).regs = s.regs := rfl
@[simp] theorem setRename_mem (r : RegIdx) (x : RegStatus) : (s.setRename r x).mem = s.mem := rfl
@[simp] theorem setRename_regStatus (r : RegIdx) (x : RegStatus) : (s.setRename r x).regStatus = s.regStatus.set r x := rfl
@[simp] theorem setRename_rs (r : RegIdx) (x : RegStatus) : (s.setRename r x).rs = s.rs := rfl
@[simp] theorem setRename_rob (r : RegIdx) (x : RegStatus) : (s.setRename r x).rob = s.rob := rfl
@[simp] theorem setRename_head (r : RegIdx) (x : RegStatus) : (s.setRename r x).head = s.head := rfl
@[simp] theorem setRename_tail (r : RegIdx) (x : RegStatus) : (s.setRename r x).tail = s.tail := rfl
@[simp] theorem setRename_entriesAvailable (r : RegIdx) (x : RegStatus) : (s.setRename r x).entriesAvailable = s.entriesAvailable := rfl
@[simp] theorem setRename_fu (r : RegIdx) (x : RegStatus) : (s.setRename r x).fu = s.fu := rfl
@[simp] theorem setRename_cdbq (r : RegIdx) (x : RegStatus) : (s.setRename r x).cdbq = s.cdbq := rfl
@[simp] theorem setRename_pc (r : RegIdx) (x : RegStatus) : (s.setRename r x).pc = s.pc := rfl
@[simp] theorem setRename_cycle (r : RegIdx) (x : RegStatus) : (s.setRename r x).cycle = s.cycle := rfl
@[simp] theorem setRename_stamp (r : RegIdx) (x : RegStatus) : (s.setRename r x).stamp = s.stamp := rfl

/-! setStamp -/

@[simp] theorem setStamp_cfg (i : Nat) (f : Stamps → Stamps) : (s.setStamp i f).cfg = s.cfg := rfl
@[simp] theorem setStamp_prog (i : Nat) (f : Stamps → Stamps) : (s.setStamp i f).prog = s.prog := rfl
@[simp] theorem setStamp_diagOut (i : Nat) (f : Stamps → Stamps) : (s.setStamp i f).diagOut = s.diagOut := rfl
@[simp] theorem setStamp_regs (i : Nat) (f : Stamps → Stamps) : (s.setStamp i f).regs = s.regs := rfl
@[simp] theorem setStamp_mem (i : Nat) (f : Stamps → Stamps) : (s.setStamp i f).mem = s.mem := rfl
@[simp] theorem setStamp_regStatus (i : Nat) (f : Stamps → Stamps) : (s.setStamp i f).regStatus = s.regStatus := rfl
@[simp] theorem setStamp_rs (i : Nat) (f : Stamps → Stamps) : (s.setStamp i f).rs = s.rs := rfl
@[simp] theorem setStamp_rob (i : Nat) (f : Stamps → Stamps) : (s.setStamp i f).rob = s.rob := rfl
@[simp] theorem setStamp_head (i : Nat) (f : Stamps → Stamps) : (s.setStamp i f).head = s.head := rfl
@[simp] theorem setStamp_tail (i : Nat) (f : Stamps → Stamps) : (s.setStamp i f).tail = s.tail := rfl
@[simp] theorem setStamp_entriesAvailable (i : Nat) (f : Stamps → Stamps) : (s.setStamp i f).entriesAvailable = s.entriesAvailable := rfl
@[simp] theorem setStamp_fu (i : Nat) (f : Stamps → Stamps) : (s.setStamp i f).fu = s.fu := rfl
@[simp] theorem setStamp_cdbq (i : Nat) (f : Stamps → Stamps) : (s.setStamp i f).cdbq = s.cdbq := rfl
@[simp] theorem setStamp_pc (i : Nat) (f : Stamps → Stamps) : (s.setStamp i f).pc = s.pc := rfl
@[simp] theorem setStamp_cycle (i : Nat) (f : Stamps → Stamps) : (s.setStamp i f).cycle = s.cycle := rfl
@[simp] theorem setStamp_stamp (i : Nat) (f : Stamps → Stamps) : (s.setStamp i f).stamp = s.stamp.set i (f (s.stampOf i)) := rfl

/-! raise -/

@[simp] theorem raise_cfg (events : List Diagnostic) : (s.raise events).cfg = s.cfg := rfl
@[simp] theorem raise_prog (events : List Diagnostic) : (s.raise events).prog = s.prog := rfl
@[simp] theorem raise_diagOut (events : List Diagnostic) : (s.raise events).diagOut = s.diagOut ++ events := rfl
@[simp] theorem raise_regs (events : List Diagnostic) : (s.raise events).regs = s.regs := rfl
@[simp] theorem raise_mem (events : List Diagnostic) : (s.raise events).mem = s.mem := rfl
@[simp] theorem raise_regStatus (events : List Diagnostic) : (s.raise events).regStatus = s.regStatus := rfl
@[simp] theorem raise_rs (events : List Diagnostic) : (s.raise events).rs = s.rs := rfl
@[simp] theorem raise_rob (events : List Diagnostic) : (s.raise events).rob = s.rob := rfl
@[simp] theorem raise_head (events : List Diagnostic) : (s.raise events).head = s.head := rfl
@[simp] theorem raise_tail (events : List Diagnostic) : (s.raise events).tail = s.tail := rfl
@[simp] theorem raise_entriesAvailable (events : List Diagnostic) : (s.raise events).entriesAvailable = s.entriesAvailable := rfl
@[simp] theorem raise_fu (events : List Diagnostic) : (s.raise events).fu = s.fu := rfl
@[simp] theorem raise_cdbq (events : List Diagnostic) : (s.raise events).cdbq = s.cdbq := rfl
@[simp] theorem raise_pc (events : List Diagnostic) : (s.raise events).pc = s.pc := rfl
@[simp] theorem raise_cycle (events : List Diagnostic) : (s.raise events).cycle = s.cycle := rfl
@[simp] theorem raise_stamp (events : List Diagnostic) : (s.raise events).stamp = s.stamp := rfl

/-! clearEvents -/

@[simp] theorem clearEvents_cfg : (s.clearEvents).cfg = s.cfg := rfl
@[simp] theorem clearEvents_prog : (s.clearEvents).prog = s.prog := rfl
@[simp] theorem clearEvents_diagOut : (s.clearEvents).diagOut = [] := rfl
@[simp] theorem clearEvents_regs : (s.clearEvents).regs = s.regs := rfl
@[simp] theorem clearEvents_mem : (s.clearEvents).mem = s.mem := rfl
@[simp] theorem clearEvents_regStatus : (s.clearEvents).regStatus = s.regStatus := rfl
@[simp] theorem clearEvents_rs : (s.clearEvents).rs = s.rs := rfl
@[simp] theorem clearEvents_rob : (s.clearEvents).rob = s.rob := rfl
@[simp] theorem clearEvents_head : (s.clearEvents).head = s.head := rfl
@[simp] theorem clearEvents_tail : (s.clearEvents).tail = s.tail := rfl
@[simp] theorem clearEvents_entriesAvailable : (s.clearEvents).entriesAvailable = s.entriesAvailable := rfl
@[simp] theorem clearEvents_fu : (s.clearEvents).fu = s.fu := rfl
@[simp] theorem clearEvents_cdbq : (s.clearEvents).cdbq = s.cdbq := rfl
@[simp] theorem clearEvents_pc : (s.clearEvents).pc = s.pc := rfl
@[simp] theorem clearEvents_cycle : (s.clearEvents).cycle = s.cycle := rfl
@[simp] theorem clearEvents_stamp : (s.clearEvents).stamp = s.stamp := rfl

/-! setMem -/

@[simp] theorem setMem_cfg (m : Memory) : (s.setMem m).cfg = s.cfg := rfl
@[simp] theorem setMem_prog (m : Memory) : (s.setMem m).prog = s.prog := rfl
@[simp] theorem setMem_diagOut (m : Memory) : (s.setMem m).diagOut = s.diagOut := rfl
@[simp] theorem setMem_regs (m : Memory) : (s.setMem m).regs = s.regs := rfl
@[simp] theorem setMem_mem (m : Memory) : (s.setMem m).mem = m := rfl
@[simp] theorem setMem_regStatus (m : Memory) : (s.setMem m).regStatus = s.regStatus := rfl
@[simp] theorem setMem_rs (m : Memory) : (s.setMem m).rs = s.rs := rfl
@[simp] theorem setMem_rob (m : Memory) : (s.setMem m).rob = s.rob := rfl
@[simp] theorem setMem_head (m : Memory) : (s.setMem m).head = s.head := rfl
@[simp] theorem setMem_tail (m : Memory) : (s.setMem m).tail = s.tail := rfl
@[simp] theorem setMem_entriesAvailable (m : Memory) : (s.setMem m).entriesAvailable = s.entriesAvailable := rfl
@[simp] theorem setMem_fu (m : Memory) : (s.setMem m).fu = s.fu := rfl
@[simp] theorem setMem_cdbq (m : Memory) : (s.setMem m).cdbq = s.cdbq := rfl
@[simp] theorem setMem_pc (m : Memory) : (s.setMem m).pc = s.pc := rfl
@[simp] theorem setMem_cycle (m : Memory) : (s.setMem m).cycle = s.cycle := rfl
@[simp] theorem setMem_stamp (m : Memory) : (s.setMem m).stamp = s.stamp := rfl

/-! setFu -/

@[simp] theorem setFu_cfg (l : List FuRecord) : (s.setFu l).cfg = s.cfg := rfl
@[simp] theorem setFu_prog (l : List FuRecord) : (s.setFu l).prog = s.prog := rfl
@[simp] theorem setFu_diagOut (l : List FuRecord) : (s.setFu l).diagOut = s.diagOut := rfl
@[simp] theorem setFu_regs (l : List FuRecord) : (s.setFu l).regs = s.regs := rfl
@[simp] theorem setFu_mem (l : List FuRecord) : (s.setFu l).mem = s.mem := rfl
@[simp] theorem setFu_regStatus (l : List FuRecord) : (s.setFu l).regStatus = s.regStatus := rfl
@[simp] theorem setFu_rs (l : List FuRecord) : (s.setFu l).rs = s.rs := rfl
@[simp] theorem setFu_rob (l : List FuRecord) : (s.setFu l).rob = s.rob := rfl
@[simp] theorem setFu_head (l : List FuRecord) : (s.setFu l).head = s.head := rfl
@[simp] theorem setFu_tail (l : List FuRecord) : (s.setFu l).tail = s.tail := rfl
@[simp] theorem setFu_entriesAvailable (l : List FuRecord) : (s.setFu l).entriesAvailable = s.entriesAvailable := rfl
@[simp] theorem setFu_fu (l : List FuRecord) : (s.setFu l).fu = l := rfl
@[simp] theorem setFu_cdbq (l : List FuRecord) : (s.setFu l).cdbq = s.cdbq := rfl
@[simp] theorem setFu_pc (l : List FuRecord) : (s.setFu l).pc = s.pc := rfl
@[simp] theorem setFu_cycle (l : List FuRecord) : (s.setFu l).cycle = s.cycle := rfl
@[simp] theorem setFu_stamp (l : List FuRecord) : (s.setFu l).stamp = s.stamp := rfl

/-! setCdbq -/

@[simp] theorem setCdbq_cfg (l : List Nat) : (s.setCdbq l).cfg = s.cfg := rfl
@[simp] theorem setCdbq_prog (l : List Nat) : (s.setCdbq l).prog = s.prog := rfl
@[simp] theorem setCdbq_diagOut (l : List Nat) : (s.setCdbq l).diagOut = s.diagOut := rfl
@[simp] theorem setCdbq_regs (l : List Nat) : (s.setCdbq l).regs = s.regs := rfl
@[simp] theorem setCdbq_mem (l : List Nat) : (s.setCdbq l).mem = s.mem := rfl
@[simp] theorem setCdbq_regStatus (l : List Nat) : (s.setCdbq l).regStatus = s.regStatus := rfl
@[simp] theorem setCdbq_rs (l : List Nat) : (s.setCdbq l).rs = s.rs := rfl
@[simp] theorem setCdbq_rob (l : List Nat) : (s.setCdbq l).rob = s.rob := rfl
@[simp] theorem setCdbq_head (l : List Nat) : (s.setCdbq l).head = s.head := rfl
@[simp] theorem setCdbq_tail (l : List Nat) : (s.setCdbq l).tail = s.tail := rfl
@[simp] theorem setCdbq_entriesAvailable (l : List Nat) : (s.setCdbq l).entriesAvailable = s.entriesAvailable := rfl
@[simp] theorem setCdbq_fu (l : List Nat) : (s.setCdbq l).fu = s.fu := rfl
@[simp] theorem setCdbq_cdbq (l : List Nat) : (s.setCdbq l).cdbq = l := rfl
@[simp] theorem setCdbq_pc (l : List Nat) : (s.setCdbq l).pc = s.pc := rfl
@[simp] theorem setCdbq_cycle (l : List Nat) : (s.setCdbq l).cycle = s.cycle := rfl
@[simp] theorem setCdbq_stamp (l : List Nat) : (s.setCdbq l).stamp = s.stamp := rfl

/-! advancePc -/

@[simp] theorem advancePc_cfg : (s.advancePc).cfg = s.cfg := rfl
@[simp] theorem advancePc_prog : (s.advancePc).prog = s.prog := rfl
@[simp] theorem advancePc_diagOut : (s.advancePc).diagOut = s.diagOut := rfl
@[simp] theorem advancePc_regs : (s.advancePc).regs = s.regs := rfl
@[simp] theorem advancePc_mem : (s.advancePc).mem = s.mem := rfl
@[simp] theorem advancePc_regStatus : (s.advancePc).regStatus = s.regStatus := rfl
@[simp] theorem advancePc_rs : (s.advancePc).rs = s.rs := rfl
@[simp] theorem advancePc_rob : (s.advancePc).rob = s.rob := rfl
@[simp] theorem advancePc_head : (s.advancePc).head = s.head := rfl
@[simp] theorem advancePc_tail : (s.advancePc).tail = s.tail := rfl
@[simp] theorem advancePc_entriesAvailable : (s.advancePc).entriesAvailable = s.entriesAvailable := rfl
@[simp] theorem advancePc_fu : (s.advancePc).fu = s.fu := rfl
@[simp] theorem advancePc_cdbq : (s.advancePc).cdbq = s.cdbq := rfl
@[simp] theorem advancePc_pc : (s.advancePc).pc = s.pc + 1 := rfl
@[simp] theorem advancePc_cycle : (s.advancePc).cycle = s.cycle := rfl
@[simp] theorem advancePc_stamp : (s.advancePc).stamp = s.stamp := rfl

/-! tick -/

@[simp] theorem tick_cfg : (s.tick).cfg = s.cfg := rfl
@[simp] theorem tick_prog : (s.tick).prog = s.prog := rfl
@[simp] theorem tick_diagOut : (s.tick).diagOut = s.diagOut := rfl
@[simp] theorem tick_regs : (s.tick).regs = s.regs := rfl
@[simp] theorem tick_mem : (s.tick).mem = s.mem := rfl
@[simp] theorem tick_regStatus : (s.tick).regStatus = s.regStatus := rfl
@[simp] theorem tick_rs : (s.tick).rs = s.rs := rfl
@[simp] theorem tick_rob : (s.tick).rob = s.rob := rfl
@[simp] theorem tick_head : (s.tick).head = s.head := rfl
@[simp] theorem tick_tail : (s.tick).tail = s.tail := rfl
@[simp] theorem tick_entriesAvailable : (s.tick).entriesAvailable = s.entriesAvailable := rfl
@[simp] theorem tick_fu : (s.tick).fu = s.fu := rfl
@[simp] theorem tick_cdbq : (s.tick).cdbq = s.cdbq := rfl
@[simp] theorem tick_pc : (s.tick).pc = s.pc := rfl
@[simp] theorem tick_cycle : (s.tick).cycle = s.cycle + 1 := rfl
@[simp] theorem tick_stamp : (s.tick).stamp = s.stamp := rfl

end Sys2Proof.Machine
end

