-- ==== Sys2Proof/Laws/Memory.lean ====
section
/-! SUPPORT. The data memory: read after write, and every memory operation keeps the canonical form. -/

namespace Sys2Proof.Machine

variable {c : Config}

theorem wfAbove_mono {m : Memory} {lo lo' : Nat} (h : lo' ≤ lo) (hm : Memory.wfAbove c lo m = true) :
    Memory.wfAbove c lo' m = true := by
  cases m with
  | nil => rfl
  | cons x rest =>
    simp only [Memory.wfAbove, Bool.and_eq_true, decide_eq_true_eq] at hm ⊢
    exact ⟨⟨⟨by omega, hm.1.1.2⟩, hm.1.2⟩, hm.2⟩

/-- A word below every listed address reads as its reset value. -/
theorem read_below {m : Memory} {lo a : Nat} (hm : Memory.wfAbove c lo m = true) (h : a < lo) :
    Memory.read c m a = memInit c a := by
  induction m generalizing lo with
  | nil => rfl
  | cons x rest ih =>
    simp only [Memory.wfAbove, Bool.and_eq_true, decide_eq_true_eq] at hm
    have hne : a ≠ x.1 := by omega
    simp only [Memory.read, if_neg hne]
    exact ih hm.2 (by omega)

/-- A write keeps the canonical form. -/
theorem write_keeps_wfAbove {m : Memory} {lo a : Nat} {v : Int} (hm : Memory.wfAbove c lo m = true) (hlo : lo ≤ a)
    (ha : a < c.memSize) : Memory.wfAbove c lo (Memory.write c m a v) = true := by
  induction m generalizing lo with
  | nil =>
    simp only [Memory.write]
    split
    · rfl
    · simp_all [Memory.wfAbove]
  | cons x rest ih =>
    have hx := hm
    simp only [Memory.wfAbove, Bool.and_eq_true, decide_eq_true_eq] at hx
    simp only [Memory.write]
    split
    · split
      · exact hm
      · simp only [Memory.wfAbove, Bool.and_eq_true, decide_eq_true_eq]
        exact ⟨⟨⟨hlo, ha⟩, by assumption⟩, ⟨⟨by omega, hx.1.1.2⟩, hx.1.2⟩, hx.2⟩
    · split
      · split
        · exact wfAbove_mono (by omega) hx.2
        · simp only [Memory.wfAbove, Bool.and_eq_true, decide_eq_true_eq]
          rename_i hax _
          subst hax
          exact ⟨⟨⟨hlo, ha⟩, by assumption⟩, hx.2⟩
      · simp only [Memory.wfAbove, Bool.and_eq_true, decide_eq_true_eq]
        exact ⟨hx.1, ih hx.2 (by omega)⟩

/-- A read after a write to the same word gives the value written. -/
theorem read_write_same {m : Memory} {lo a : Nat} {v : Int} (hm : Memory.wfAbove c lo m = true) :
    Memory.read c (Memory.write c m a v) a = v := by
  induction m generalizing lo with
  | nil =>
    simp only [Memory.write]
    split <;> simp_all [Memory.read]
  | cons x rest ih =>
    have hx := hm
    simp only [Memory.wfAbove, Bool.and_eq_true, decide_eq_true_eq] at hx
    simp only [Memory.write]
    split
    · split
      · rename_i hlt hv
        rw [hv, Memory.read, if_neg (by omega)]
        exact read_below hx.2 (by omega)
      · simp [Memory.read]
    · split
      · split
        · rename_i hax hv
          rw [hv]
          exact read_below hx.2 (by omega)
        · simp [Memory.read]
      · rename_i hne
        simp only [Memory.read, if_neg hne]
        exact ih hx.2

/-- A write leaves every other word alone. -/
theorem read_write_other {m : Memory} {a b : Nat} {v : Int} (h : b ≠ a) :
    Memory.read c (Memory.write c m a v) b = Memory.read c m b := by
  induction m with
  | nil =>
    simp only [Memory.write]
    split <;> simp [Memory.read, h]
  | cons x rest ih =>
    simp only [Memory.write]
    split
    · split <;> simp [Memory.read, h]
    · split
      · rename_i hax
        subst hax
        split <;> simp [Memory.read, h]
      · simp only [Memory.read, ih]

/-- A STORE's write keeps the canonical form, in range or not (R66). -/
theorem memWrite_keeps_wf {m : Memory} {address v : Int} (hm : Memory.wf c m = true) :
    Memory.wf c (memWrite c m address v) = true := by
  unfold memWrite
  split
  · rename_i hv
    simp only [addressValid, Bool.and_eq_true, decide_eq_true_eq] at hv
    exact write_keeps_wfAbove hm (Nat.zero_le _) (by omega)
  · exact hm

/-- The reset memory is in canonical form. -/
theorem reset_mem_wf : Memory.wf State.reset.cfg State.reset.mem = true := rfl

/-- The reset memory of any configuration and program is in canonical form. -/
theorem resetWith_mem_wf (program : List InstrWord) :
    Memory.wf (State.resetWith c program).cfg (State.resetWith c program).mem = true := rfl

/-- A word of the reset memory reads as `MEM_INIT` of its address (R27). -/
theorem read_resetWith (program : List InstrWord) (a : Nat) :
    Memory.read c (State.resetWith c program).mem a = memInit c a := rfl

end Sys2Proof.Machine
end

