-- ==== Sys2Proof/Laws/PerInstr.lean ====
section
/-! SUPPORT. The family `EncodeFitsRow`: at `OFFW` = 16 the word of every record lies in its row of the opcode table (R89),
one lemma for each constructor of `Instr`. -/

namespace Sys2Proof.Laws

/-- The `mask` of an instruction's row (R89): the bits that are fixed. -/
def rowMask : Instr → InstrWord
  | .add _ _ _ => 0xE0003FFF
  | .sub _ _ _ => 0xE0003FFF
  | .mul _ _ _ => 0xE0003FFF
  | .div _ _ _ => 0xE0003FFF
  | .load _ _ _ => 0xE0070000
  | .store _ _ _ => 0xE0070000

/-- The `match` of an instruction's row (R89): the value of the fixed bits. -/
def rowMatch : Instr → InstrWord
  | .add _ _ _ => 0x00000000
  | .sub _ _ _ => 0x20000000
  | .mul _ _ _ => 0x40000000
  | .div _ _ _ => 0x60000000
  | .load _ _ _ => 0x80000000
  | .store _ _ _ => 0xA0000000

/-- The fixed bits of the encoded word are the row's. -/
def EncodeFitsRow.Statement (i : Instr) : Prop := encode 16 i &&& rowMask i = rowMatch i

theorem encodeR_mask (op : BitVec 3) (ra rb rc : RegIdx) :
    encodeR op ra rb rc &&& 0xE0003FFF = placeField 29 op := by
  apply BitVec.eq_of_getLsbD_eq
  intro n hn
  unfold encodeR placeField
  interval_cases n <;> simp

theorem encodeM_mask (op : BitVec 3) (ra : RegIdx) (offset : Int) (rb : RegIdx) :
    encodeM 16 op ra offset rb &&& 0xE0070000 = placeField 29 op := by
  apply BitVec.eq_of_getLsbD_eq
  intro n hn
  unfold encodeM placeField
  interval_cases n <;> simp

theorem EncodeFitsRow.add (rd rs1 rs2 : RegIdx) : EncodeFitsRow.Statement (.add rd rs1 rs2) :=
  encodeR_mask 0 rd rs1 rs2

theorem EncodeFitsRow.sub (rd rs1 rs2 : RegIdx) : EncodeFitsRow.Statement (.sub rd rs1 rs2) :=
  encodeR_mask 1 rd rs1 rs2

theorem EncodeFitsRow.mul (rd rs1 rs2 : RegIdx) : EncodeFitsRow.Statement (.mul rd rs1 rs2) :=
  encodeR_mask 2 rd rs1 rs2

theorem EncodeFitsRow.div (rd rs1 rs2 : RegIdx) : EncodeFitsRow.Statement (.div rd rs1 rs2) :=
  encodeR_mask 3 rd rs1 rs2

theorem EncodeFitsRow.load (rd : RegIdx) (offset : Int) (base : RegIdx) :
    EncodeFitsRow.Statement (.load rd offset base) :=
  encodeM_mask 4 rd offset base

theorem EncodeFitsRow.store (rsrc : RegIdx) (offset : Int) (base : RegIdx) :
    EncodeFitsRow.Statement (.store rsrc offset base) :=
  encodeM_mask 5 rsrc offset base

end Sys2Proof.Laws
end

