-- ==== Sys2Proof/Laws/Tables.lean ====
section
/-! SUPPORT. Read after write for the stations, the ROB, the registers, the rename table and the stamps. -/

namespace Sys2Proof.Machine

variable (s : State)

theorem entry_setEntry_same {p : Nat} (e : RobEntry) (h : p < s.rob.length) : (s.setEntry p e).entry p = e := by
  simp [State.entry, State.setEntry, h]

theorem entry_setEntry_other {p p' : Nat} (e : RobEntry) (h : p' ≠ p) : (s.setEntry p e).entry p' = s.entry p' := by
  simp [State.entry, State.setEntry, List.getD_eq_getElem?_getD, List.getElem?_set_ne (Ne.symm h)]

theorem reg_setReg_same (r : RegIdx) (v : Int) : (s.setReg r v).reg r = v := by
  simp [State.reg, State.setReg]

theorem reg_setReg_other {r r' : RegIdx} (v : Int) (h : r' ≠ r) : (s.setReg r v).reg r' = s.reg r' := by
  have : (r : Nat) ≠ r' := fun e => h (Fin.ext e.symm)
  simp [State.reg, State.setReg, Vector.getElem_set_ne, this]

theorem rename_setRename_same (r : RegIdx) (x : RegStatus) : (s.setRename r x).rename r = x := by
  simp [State.rename, State.setRename]

theorem rename_setRename_other {r r' : RegIdx} (x : RegStatus) (h : r' ≠ r) :
    (s.setRename r x).rename r' = s.rename r' := by
  have : (r : Nat) ≠ r' := fun e => h (Fin.ext e.symm)
  simp [State.rename, State.setRename, Vector.getElem_set_ne, this]

theorem stampOf_setStamp_same {i : Nat} (f : Stamps → Stamps) (h : i < s.stamp.length) :
    (s.setStamp i f).stampOf i = f (s.stampOf i) := by
  simp [State.stampOf, State.setStamp, h]

theorem stampOf_setStamp_other {i i' : Nat} (f : Stamps → Stamps) (h : i' ≠ i) :
    (s.setStamp i f).stampOf i' = s.stampOf i' := by
  simp [State.stampOf, State.setStamp, List.getD_eq_getElem?_getD, List.getElem?_set_ne (Ne.symm h)]

theorem station_setStation_same {id : StationId} (q : Station) (h : s.stationExists id = true) :
    (s.setStation id q).station id = q := by
  unfold State.stationExists at h
  rw [decide_eq_true_eq] at h
  obtain ⟨g, k⟩ := id
  cases g <;>
    · simp only [StationPool.group] at h
      simp [State.station, StationPool.set, StationPool.group, h]

theorem station_setStation_other {id id' : StationId} (q : Station) (h : id' ≠ id) :
    (s.setStation id q).station id' = s.station id' := by
  obtain ⟨g, k⟩ := id
  obtain ⟨g', k'⟩ := id'
  cases g <;> cases g' <;>
    simp_all [State.station, StationPool.set, StationPool.group, List.getD_eq_getElem?_getD, eq_comm]

/-- Stations read from the pool alone. -/
theorem station_of_rs {s t : State} (h : t.rs = s.rs) (id : StationId) : t.station id = s.station id := by
  simp only [State.station, h]

/-- Entries read from the ROB alone. -/
theorem entry_of_rob {s t : State} (h : t.rob = s.rob) (p : Nat) : t.entry p = s.entry p := by
  simp only [State.entry, h]

end Sys2Proof.Machine
end

