-- ==== Sys2Proof/Laws/Phases.lean ====
section
/-! SUPPORT. One inversion lemma for each shared operation and each phase: everything it can do when it answers a next state. -/

namespace Sys2Proof.Machine

/-! Sequencing -/

theorem andThen_next {o : Host.Outcome State Fault Refusal} {f : State → Host.Outcome State Fault Refusal} {t : State}
    (h : andThen o f = .next t) : ∃ s, o = .next s ∧ f s = .next t := by
  cases o with
  | next s => exact ⟨s, rfl, h⟩
  | fault r => cases h
  | refused r => cases h

@[simp] theorem andThen_of_next (s : State) (f : State → Host.Outcome State Fault Refusal) :
    andThen (.next s) f = f s := rfl

/-- A property that holds before and that every call keeps holds after the loop. -/
theorem forEach_keeps {α : Type} {P : State → Prop} {f : State → α → Host.Outcome State Fault Refusal}
    {l : List α} {s t : State} (hf : ∀ x ∈ l, ∀ s t, P s → f s x = .next t → P t) (hs : P s)
    (h : forEach f l s = .next t) : P t := by
  induction l generalizing s with
  | nil => cases h; exact hs
  | cons x xs ih =>
    obtain ⟨s1, h1, h2⟩ := andThen_next h
    exact ih (fun y hy => hf y (List.mem_cons_of_mem _ hy)) (hf x List.mem_cons_self s s1 hs h1) h2

/-- A loop whose calls all answer a next state from states with the property answers one. -/
theorem forEach_completes {α : Type} {P : State → Prop} {f : State → α → Host.Outcome State Fault Refusal}
    {l : List α} {s : State} (hf : ∀ x ∈ l, ∀ s, P s → ∃ t, f s x = .next t ∧ P t) (hs : P s) :
    ∃ t, forEach f l s = .next t ∧ P t := by
  induction l generalizing s with
  | nil => exact ⟨s, rfl, hs⟩
  | cons x xs ih =>
    obtain ⟨t, ht, hp⟩ := hf x List.mem_cons_self s hs
    obtain ⟨u, hu, hq⟩ := ih (fun y hy => hf y (List.mem_cons_of_mem _ hy)) hp
    exact ⟨u, by simp [forEach, ht, hu], hq⟩

/-! Issue -/

theorem pickStation_spec {s : State} {g : StationGroup} {id : StationId} (h : s.pickStation g = some id) :
    id ∈ s.cfg.pickOrder ∧ id.group = g ∧ s.stationExists id = true ∧ (s.station id).busy = false := by
  have h1 := List.find?_some h
  simp only [State.freeIn, Bool.and_eq_true, decide_eq_true_eq, Bool.not_eq_true'] at h1
  exact ⟨List.mem_of_find?_eq_some h, h1.1.1, h1.1.2, h1.2⟩

theorem beginIssue_cases {k : Kind} {dest : Option RegIdx} {s s1 : State} {id : StationId}
    (h : beginIssue k dest s = some (id, s1)) :
    s.pickStation (groupOf k) = some id ∧ s.pc < s.prog.length ∧ 0 < s.entriesAvailable ∧
    s1 = (s.allocateEntry k dest).setStation id ((s.station id).occupy k s.pc s.tail) := by
  unfold beginIssue at h
  split at h
  · split at h
    · cases h
      exact ⟨by assumption, by omega, by omega, rfl⟩
    · cases h
  · cases h

theorem issueArith_cases {k : Kind} {rd rs1 rs2 : RegIdx} {s t : State} (h : issueArith k rd rs1 rs2 s = .next t) :
    (beginIssue k (some rd) s = none ∧ t = s) ∨
    ∃ id s1 o1 o2, beginIssue k (some rd) s = some (id, s1) ∧ capture s1 rs1 = some o1 ∧ capture s1 rs2 = some o2 ∧
      t = ((s1.setStation id ((s1.station id).wireArith o1 o2)).renameDest (some rd) s.tail).advancePc := by
  unfold issueArith at h
  split at h
  · cases h
    exact .inl ⟨by assumption, rfl⟩
  · split at h
    · cases h
      exact .inr ⟨_, _, _, _, by assumption, by assumption, by assumption, rfl⟩
    · cases h

theorem issueLoad_cases {rd base : RegIdx} {offset : Int} {s t : State} (h : issueLoad rd offset base s = .next t) :
    (beginIssue .load (some rd) s = none ∧ t = s) ∨
    ∃ id s1 o, beginIssue .load (some rd) s = some (id, s1) ∧ capture s1 base = some o ∧
      t = ((s1.setStation id ((s1.station id).wireLoad (offsetValue s.cfg offset) o)).renameDest (some rd)
        s.tail).advancePc := by
  unfold issueLoad at h
  split at h
  · cases h
    exact .inl ⟨by assumption, rfl⟩
  · split at h
    · cases h
      exact .inr ⟨_, _, _, by assumption, by assumption, rfl⟩
    · cases h

theorem issueStore_cases {rsrc base : RegIdx} {offset : Int} {s t : State} (h : issueStore rsrc offset base s = .next t) :
    (beginIssue .store none s = none ∧ t = s) ∨
    ∃ id s1 od ob, beginIssue .store none s = some (id, s1) ∧ capture s1 rsrc = some od ∧ capture s1 base = some ob ∧
      t = ((s1.setStation id ((s1.station id).wireStore od (offsetValue s.cfg offset) ob)).storeDataAtIssue s.tail
        ((s1.station id).wireStore od (offsetValue s.cfg offset) ob)).advancePc := by
  unfold issueStore at h
  split at h
  · cases h
    exact .inl ⟨by assumption, rfl⟩
  · split at h
    · cases h
      exact .inr ⟨_, _, _, _, by assumption, by assumption, by assumption, rfl⟩
    · cases h

theorem issuePhase_cases {s t : State} (h : issuePhase s = .next t) :
    (s.fetch = none ∧ t = s) ∨
    (∃ w i, s.fetch = some w ∧ decode s.cfg.offw w = .instr i ∧ exec i s = .next t) ∨
    (∃ w why, s.fetch = some w ∧ decode s.cfg.offw w = .reserved why ∧ t = s.raise [.illegalKind s.pc]) := by
  unfold issuePhase at h
  split at h
  · cases h
    exact .inl ⟨by assumption, rfl⟩
  · split at h
    · exact .inr (.inl ⟨_, _, by assumption, by assumption, h⟩)
    · cases h
      exact .inr (.inr ⟨_, _, by assumption, by assumption, rfl⟩)

/-! Commit -/

theorem commitReady_iff (s : State) : s.commitReady = true ↔
    s.entriesAvailable < s.cfg.robSize ∧ (s.entry s.head).busy = true ∧ (s.entry s.head).state = .wroteResult ∧
      ((s.entry s.head).kind = some .store → (s.entry s.head).valueReady = true) := by
  simp only [State.commitReady, Bool.and_eq_true, decide_eq_true_eq, Bool.not_eq_true', Bool.and_eq_false_imp,
    beq_iff_eq, and_assoc, Bool.not_eq_false']

theorem commit_cases {s t : State} (h : commit s = .next t) :
    (s.commitReady = false ∧ t = s) ∨
    (s.commitReady = true ∧ ∃ i, (s.entry s.head).instructionIndex = some i ∧
      (((s.entry s.head).kind = some .store ∧
          t = ((s.stampCommit i).commitStore i (s.entry s.head).address (s.entry s.head).value).freeHead) ∨
        ((s.entry s.head).kind ≠ some .store ∧ (s.entry s.head).kind ≠ none ∧ ∃ r,
          (s.entry s.head).destinationRegister = some r ∧
          t = ((s.stampCommit i).commitRegister r (s.entry s.head).value s.head).freeHead))) := by
  unfold commit at h
  split at h
  · rename_i hr
    refine .inr ⟨hr, ?_⟩
    split at h
    · cases h
      exact ⟨_, by assumption, .inl ⟨by assumption, rfl⟩⟩
    · rename_i i k r hne hi hk hd
      cases h
      refine ⟨i, hi, .inr ⟨?_, by simp [hk], r, hd, rfl⟩⟩
      rw [hk]
      rintro ⟨⟩
      exact hne rfl
    · cases h
  · cases h
    rename_i hr
    exact .inl ⟨by simpa using hr, rfl⟩

/-! Write-Result -/

theorem locateStation_spec {s : State} {b : Nat} {id : StationId} (h : s.locateStation b = some id) :
    id ∈ s.cfg.stationOrder ∧ (s.station id).busy = true ∧ (s.station id).destRob = some b := by
  have h1 := List.find?_some h
  simp only [Station.producesInto, Bool.and_eq_true, beq_iff_eq] at h1
  exact ⟨List.mem_of_find?_eq_some h, h1.1, h1.2⟩

theorem writeResult_cases {s t : State} (h : writeResult s = .next t) :
    (s.cdbq = [] ∧ t = s) ∨
    ∃ b rest id k i, s.cdbq = b :: rest ∧ (s.setCdbq rest).locateStation b = some id ∧ (s.station id).op = some k ∧
      (s.station id).instructionIndex = some i ∧ t = (s.setCdbq rest).writeBack b id k i := by
  unfold writeResult at h
  split at h
  · cases h
    exact .inl ⟨by assumption, rfl⟩
  · split at h
    · cases h
    · split at h
      · cases h
        exact .inr ⟨_, _, _, _, _, by assumption, by assumption, by assumption, by assumption, rfl⟩
      · cases h

/-! Execute -/

theorem dispatchable_iff (s : State) (q : Station) : s.dispatchable q = true ↔
    q.busy = true ∧ q.qj = none ∧ q.qk = none ∧ ∃ b, q.destRob = some b ∧ (s.entry b).state = .issued := by
  unfold State.dispatchable
  cases h : q.destRob <;> simp [and_assoc]

theorem dispatchStation_cases {s t : State} {id : StationId} (h : dispatchStation s id = .next t) :
    (s.dispatchable (s.station id) = false ∧ t = s) ∨
    (s.dispatchable (s.station id) = true ∧ ∃ b k i, (s.station id).destRob = some b ∧ (s.station id).op = some k ∧
      (s.station id).instructionIndex = some i ∧
      t = (s.setFu (s.fu ++ [{ rs := id, instructionIndex := i, remaining := latency s.cfg k }])).setEntry b
        ((s.entry b).dispatched k (s.station id))) := by
  unfold dispatchStation at h
  split at h
  · split at h
    · cases h
      exact .inr ⟨by assumption, _, _, _, by assumption, by assumption, by assumption, rfl⟩
    · cases h
  · cases h
    rename_i hd
    exact .inl ⟨by simpa using hd, rfl⟩

theorem completeRecord_cases {s t : State} {f : FuRecord} (h : completeRecord s f = .next t) :
    ∃ b, (s.station f.rs).destRob = some b ∧
      t = (s.setStamp f.instructionIndex fun x => { x with executionComplete := some s.cycle }).setCdbq
        (s.cdbq ++ [b]) := by
  unfold completeRecord at h
  split at h
  · cases h
    exact ⟨_, by assumption, rfl⟩
  · cases h

/-- Every order of D7 visits each record once. -/
theorem visitOrder_perm (o : RecordOrder) (l : List FuRecord) : (visitOrder o l).Perm l := by
  cases o with
  | insertion => exact .refl _
  | newestFirst => exact l.reverse_perm
  | byStation order => exact l.perm_insertionSort _
  | byInstruction => exact l.perm_insertionSort _

/-- Sorting by a key gives rising keys. -/
theorem sorted_byKey (key : FuRecord → Nat) (l : List FuRecord) :
    (l.insertionSort fun f g => key f ≤ key g).Pairwise fun f g => key f ≤ key g :=
  haveI : Std.Total fun f g : FuRecord => key f ≤ key g := ⟨fun f g => Nat.le_total (key f) (key g)⟩
  haveI : IsTrans FuRecord fun f g => key f ≤ key g := ⟨fun _ _ _ => Nat.le_trans⟩
  List.pairwise_insertionSort _ l

/-- The records of a list-ordered walk come by their station's place in the list. -/
theorem visitOrder_byStation (order : List StationId) (l : List FuRecord) :
    (visitOrder (.byStation order) l).Pairwise fun f g => order.idxOf f.rs ≤ order.idxOf g.rs :=
  sorted_byKey (fun f => order.idxOf f.rs) l

/-- The records of a walk by instruction come by instruction index. -/
theorem visitOrder_byInstruction (l : List FuRecord) :
    (visitOrder .byInstruction l).Pairwise fun f g => f.instructionIndex ≤ g.instructionIndex :=
  sorted_byKey FuRecord.instructionIndex l

/-! The cycle -/

theorem runCycle_cases {s t : State} (h : runCycle s = .next t) : ∃ s1 s2 s3 s4 s5,
    commit s.clearEvents = .next s1 ∧ writeResult s1 = .next s2 ∧ issuePhase s2 = .next s3 ∧
    executeStart s3 = .next s4 ∧ executeAdvance s4 = .next s5 ∧ t = s5.tick := by
  obtain ⟨s1, h1, h⟩ := andThen_next h
  obtain ⟨s2, h2, h⟩ := andThen_next h
  obtain ⟨s3, h3, h⟩ := andThen_next h
  obtain ⟨s4, h4, h⟩ := andThen_next h
  obtain ⟨s5, h5, h⟩ := andThen_next h
  cases h
  exact ⟨s1, s2, s3, s4, s5, h1, h2, h3, h4, h5, rfl⟩

end Sys2Proof.Machine
end

