-- ==== Sys2Proof/Tests/Slice0.lean ====
section
/-! SUPPORT. Tests against the spec's own vectors (95_test_vectors.md), and a witness for the hypotheses of every statement. -/

namespace Sys2Proof.Tests

open Sys2Proof Sys2Proof.Machine

/-! WellFormed smoke: each bound of the offset field refuses a record (R87: 1014 fits; 0x7FFF and -0x8000 are the ends) -/

theorem test_wf_load_high : (Instr.load 1 32768 0).wellFormed 16 = false := by decide
theorem test_wf_load_low : (Instr.load 1 (-32769) 0).wellFormed 16 = false := by decide
theorem test_wf_store_high : (Instr.store 1 32768 0).wellFormed 16 = false := by decide
theorem test_wf_store_low : (Instr.store 1 (-32769) 0).wellFormed 16 = false := by decide
theorem test_wf_ends : (Instr.load 1 32767 0).wellFormed 16 = true ∧ (Instr.store 1 (-32768) 0).wellFormed 16 = true := by decide
theorem test_legal_latency : ¬ ({ latMul := 0 } : Config).Legal := by decide
theorem test_legal_pool : ¬ ({ robSize := 0 } : Config).Legal := by decide
theorem test_legal_order : ¬ ({ scanOrder := [] } : Config).Legal := by decide
theorem test_legal_offw : ¬ ({ offw := 20 } : Config).Legal ∧ ¬ ({ offw := 0 } : Config).Legal ∧
    ¬ ({ offw := 16, xlen := 15 } : Config).Legal := by decide
theorem test_legal_default : ({} : Config).Legal := by decide

/-! Decode: words written bit by bit from the encodings of R89 -/

theorem test_decode_add : decode 16 0b00000001000100001100000000000000#32 = .instr (.add 1 2 3) := by decide
theorem test_decode_sub : decode 16 0b00100100000010010100000000000000#32 = .instr (.sub 4 1 5) := by decide
theorem test_decode_mul : decode 16 0b01000110001000000100000000000000#32 = .instr (.mul 6 4 1) := by decide
theorem test_decode_div : decode 16 0b01100001000100001100000000000000#32 = .instr (.div 1 2 3) := by decide
theorem test_decode_load : decode 16 0b10000001000000001111111111101100#32 = .instr (.load 1 (-20) 0) := by decide
theorem test_decode_store : decode 16 0b10100011000100000000000000000100#32 = .instr (.store 3 4 2) := by decide
theorem test_decode_zero_word : decode 16 0#32 = .instr (.add 0 0 0) := by decide
theorem test_decode_reserved : decode 16 0xFFFFFFFF = .reserved .op ∧ decode 16 0x82010064 = .reserved .zero3 := by decide
theorem test_decode_offw : decode 19 0x8107FFFF = .instr (.load 1 (-1) 0) ∧ decode 15 0x8100FFEC = .reserved .zero3 := by decide
theorem test_decodeTableWord : decodeTableWord 32 0xA2000032 = some (.store 2 50 0) := by decide
theorem test_encode_load : encode 16 (.load 8 (-9) 0) = 0x8800FFF7 := by decide

/-! Results (95_test_vectors.md section 2.1 and 2.2) -/

theorem test_add_wraps : addResult {} 2147483647 1 = -2147483648 := by decide
theorem test_sub_order : subResult {} 10 20 = -10 ∧ subResult {} 0 (-2147483648) = -2147483648 := by decide
theorem test_mul_wraps : mulResult {} 46341 46341 = -2147479015 := by decide
theorem test_div_truncates : divResult {} (-7) 2 = -3 ∧ divResult {} 7 (-2) = -3 ∧ divResult {} 5 0 = 0 := by decide
theorem test_div_overflow : divResult {} (-2147483648) (-1) = -2147483648 := by decide
theorem test_load_range : memRead {} [] 1023 = 1023 ∧ memRead {} [] 1024 = 0 ∧ memRead {} [] (-1) = 0 := by decide
theorem test_memInit : memInit {} 7 = 7 ∧ memInit { memInit := [(7, -1)] } 7 = -1 ∧
    memWrite { memInit := [(7, -1)] } [] 7 7 = [(7, 7)] := by decide
theorem test_store_range : memWrite {} [] 1024 7 = [] ∧ memWrite {} [] 60 10 = [(60, 10)] := by decide

/-! Small states -/

/-- One station in each group and a ROB of two entries, so that a state is small. -/
def small : Config := { robSize := 2, nAdd := 1, nMul := 1, nLoad := 1, nStore := 1 }

/-- The reset state of the small machine with a program. -/
def start (program : List InstrWord) : State := State.resetWith small program

/-- The state of an outcome. -/
def stateOf (o : Host.Outcome State Fault Refusal) : State :=
  match o with
  | .next t => t
  | _ => State.reset

/-- The outcome is a next state. -/
def isNext (o : Host.Outcome State Fault Refusal) : Bool :=
  match o with
  | .next _ => true
  | _ => false

theorem next_of_isNext {o : Host.Outcome State Fault Refusal} (h : isNext o = true) : o = .next (stateOf o) := by
  cases o <;> simp_all [isNext, stateOf]

/-- The one station of a group. -/
abbrev st (g : StationGroup) : StationId := ⟨g, 0⟩

/-! One step of each instruction (the first cycle of the vectors S1, S3, S4, S5, P1) -/

theorem test_step_add : ((stateOf (step (State.reset.withFetchWord 32 0x0110C000))).station ⟨.add, 0⟩).op = some .add := by
  decide
theorem test_step_sub : (stateOf (step (State.reset.withFetchWord 32 0x24094000))).rename 4 = ⟨true, some 0⟩ := by decide
theorem test_step_mul : (stateOf (step (State.reset.withFetchWord 32 0x46204000))).fu = [⟨⟨.mul, 0⟩, 0, 9⟩] := by decide
theorem test_step_div : (stateOf (step (State.reset.withFetchWord 32 0x6110C000))).fu = [⟨⟨.mul, 0⟩, 0, 39⟩] := by decide
theorem test_step_load : ((stateOf (step (State.reset.withFetchWord 32 0x82000064))).station ⟨.load, 0⟩).a = 100 := by decide
theorem test_step_store : ((stateOf (step (State.reset.withFetchWord 32 0xA2000032))).entry 0).valueReady = true := by decide
theorem test_step_reserved : (stateOf (step (State.reset.withFetchWord 32 0xC0000000))).diagOut = [.illegalKind 0] := by decide

/-! Witnesses: the encoding and load statements -/

theorem witness_DecodeOfEncode : OffsetWidthFits 16 ∧ (Instr.load 31 (-32768) 31).wellFormed 16 = true ∧
    OffsetWidthFits 19 ∧ (Instr.load 31 262143 31).wellFormed 19 = true ∧
    OffsetWidthFits 1 ∧ (Instr.store 31 (-1) 31).wellFormed 1 = true := by decide
theorem witness_EncodeOfDecode : OffsetWidthFits 16 ∧ decode 16 0x8100FFEC = .instr (.load 1 (-20) 0) := by decide
theorem witness_ReservedWordsExactly : OffsetWidthFits 16 ∧ decode 16 0x82010064 = .reserved .zero3 ∧
    decode 16 0x82000064 = .instr (.load 2 100 0) ∧ OffsetWidthFits 1 ∧ decode 1 0xA0000002 = .reserved .zero3 ∧
    OffsetWidthFits 19 ∧ decode 19 0xA007FFFF = .instr (.store 0 (-1) 0) := by decide
theorem witness_LoadAccepts_illegal : ¬ ({ nMul := 0 } : Config).Legal := by decide
theorem witness_LoadAccepts_good : small.Legal ∧ ∀ w ∈ [(0x0110C000 : InstrWord)], ∃ i, decode 16 w = .instr i :=
  ⟨by decide, fun w hw => ⟨.add 1 2 3, by
    rw [List.mem_singleton] at hw
    subst hw
    decide⟩⟩
theorem witness_LoadAccepts_reserved : small.Legal ∧ [(0xC0000000 : InstrWord)] = [] ++ 0xC0000000 :: [] ∧
    decode 16 0xC0000000 = .reserved .op := by decide
theorem witness_StepRunsDecodedInstruction :
    (start [0x0110C000]).prog[(start [0x0110C000]).pc]? = some 0x0110C000 ∧
    decode 16 0x0110C000 = .instr (.add 1 2 3) := by decide
theorem witness_StepWithoutInstruction : (start []).prog.length ≤ (start []).pc := by decide
theorem witness_ReservedWordIsRefusedForEver :
    (start [0xC0000000]).prog[(start [0xC0000000]).pc]? = some 0xC0000000 ∧
    decode 16 0xC0000000 = .reserved .op ∧ isNext (step (start [0xC0000000])) = true := by decide

/-! Witnesses: Issue -/

theorem witness_ArithmeticIssues : (start [0]).readable 2 ∧ (start [0]).readable 3 ∧
    (start [0]).canIssue .add (st .add) ∧ (start [0]).canIssue .mul (st .mul) := by
  unfold State.readable State.canIssue
  decide
theorem witness_LoadIssues : (start [0]).canIssue .load (st .load) ∧ (start [0]).readable 0 := by
  unfold State.readable State.canIssue
  decide
theorem witness_StoreIssues : (start [0]).canIssue .store (st .store) ∧ (start [0]).tail < (start [0]).rob.length ∧
    (start [0]).readable 2 ∧ (start [0]).readable 0 := by
  unfold State.readable State.canIssue
  decide
theorem witness_StructuralStall_program : (start []).prog.length ≤ (start []).pc := by decide
theorem witness_StructuralStall_rob : ({ start [0] with entriesAvailable := 0 } : State).entriesAvailable = 0 := rfl
theorem witness_StructuralStall_station :
    ∀ id ∈ small.pickOrder, id.group = groupOf .add → id.index < (((start [0]).setStation (st .add) { busy := true }).rs.group
      id.group).length → (((start [0]).setStation (st .add) { busy := true }).station id).busy = true := by decide
theorem witness_IssueTakesLowestFreeStation : small.pickOrder = small.stationOrder ∧
    ∀ g, ((start [0]).rs.group g).length = small.groupSize g :=
  ⟨by decide, fun g => by cases g <;> decide⟩
theorem witness_IssueFrame : ∀ i ∈ [Instr.add 1 2 3, .sub 1 2 3, .mul 1 2 3, .div 1 2 3, .load 1 5 0, .store 1 5 0],
    isNext (exec i (start [0])) = true ∧ (stateOf (exec i (start [0]))).pc = 1 := by decide

/-! Witnesses: Execute -/

/-- An ADD that has issued with both operands and is not dispatched. -/
def issued : State := stateOf (exec (.add 1 2 3) (start [0x0110C000]))

/-- The same after its dispatch. -/
def dispatched : State := stateOf (executeStart issued)

theorem witness_ExecuteStart : issued.cfg.scanOrder.Nodup ∧
    (∀ id ∈ issued.cfg.scanOrder, (issued.station id).busy = true →
      (issued.station id).op ≠ none ∧ (issued.station id).instructionIndex ≠ none ∧
        (issued.station id).destRob ≠ none) ∧
    (∀ id ∈ issued.cfg.scanOrder, ∀ id' ∈ issued.cfg.scanOrder, (issued.station id).busy = true →
      (issued.station id').busy = true → (issued.station id).destRob = (issued.station id').destRob → id = id') ∧
    issued.dispatchable (issued.station (st .add)) = true := by decide
theorem witness_ExecuteAdvance : dispatched.cfg.recordOrder = .insertion ∧ dispatched.fu ≠ [] ∧
    ∀ f ∈ dispatched.fu, (dispatched.station f.rs).destRob ≠ none := by decide

/-- Two LOADs that finish in the same cycle, walked in a given order. -/
def twoRecords (o : RecordOrder) : State :=
  { start [0x82000064, 0xA3000064] with
    cfg := { small with recordOrder := o }
    fu := [⟨st .load, 0, 1⟩, ⟨st .store, 1, 1⟩]
    rs := { add := [{}], mul := [{}], load := [{ busy := true, destRob := some 0 }], store := [{ busy := true, destRob := some 1 }] } }

theorem witness_RecordOrder : ∀ o ∈ [RecordOrder.insertion, .newestFirst, .byStation [st .store], .byInstruction],
    (twoRecords o).cfg.recordOrder = o ∧
      ∀ f ∈ (twoRecords o).fu, ((twoRecords o).station f.rs).destRob ≠ none := by decide
theorem test_recordOrder : (stateOf (executeAdvance (twoRecords .byInstruction))).cdbq = [0, 1] ∧
    (stateOf (executeAdvance (twoRecords .newestFirst))).cdbq = [1, 0] ∧
    (stateOf (executeAdvance (twoRecords (.byStation [st .store])))).cdbq = [1, 0] := by decide
theorem witness_LatencyBelowOne :
    isNext (andThen (executeStart { issued with cfg := { small with latAdd := -3 } }) executeAdvance) = true := by decide

/-! Witnesses: Write-Result and Commit -/

/-- The station of a finished instruction of kind `k` with offset `a` and base 0. -/
def finishedStation (k : Kind) (a : Int) : Station :=
  { busy := true, op := some k, vj := 7, vk := 0, destRob := some 0, a := a, instructionIndex := some 0 }

/-- The station of a STORE that waits for the finished instruction's result as its data. -/
def waitingStore : Station :=
  { busy := true, op := some .store, qj := some 0, vk := 10, destRob := some 1, a := 50, instructionIndex := some 1 }

/-- A kind's station at the front of the CDB queue, with a STORE waiting for its data in the other entry. -/
def finished (k : Kind) (a : Int := 3) : State :=
  { start [0x0110C000, 0xA2000032] with
    rob := [{ busy := true, instructionIndex := some 0, kind := some k, state := .executing },
      { busy := true, instructionIndex := some 1, kind := some .store, state := .issued }]
    entriesAvailable := 0
    pc := 2
    cdbq := [0]
    rs := { add := [finishedStation k a], mul := [{}], load := [{}], store := [waitingStore] } }

theorem witness_WriteResultComputes : ∀ k ∈ [Kind.add, .sub, .mul, .div, .load, .store],
    ∀ a ∈ [(0 : Int), 1023, 1024, -1],
    (finished k a).cdbq = 0 :: [] ∧ 0 < (finished k a).rob.length ∧ (finished k a).locateStation 0 = some (st .add) ∧
    ((finished k a).station (st .add)).op = some k ∧ ((finished k a).station (st .add)).instructionIndex = some 0 ∧
    (∀ q ∈ (finished k a).rs.toList, q.busy = true → q.destRob = some 0 → q.qj ≠ some 0) ∧
    wrap small.xlen (((finished k a).station (st .add)).a + ((finished k a).station (st .add)).vk) = a := by decide
theorem witness_Broadcast : ((finished .add).entry 0).busy = true ∧ isNext (writeResult (finished .add)) = true ∧
    ((finished .add).station (st .store)).qj = some 0 := by decide
theorem witness_MissingStation : ({ start [] with cdbq := [0] } : State).cdbq = 0 :: [] ∧
    ∀ id ∈ small.stationOrder, (({ start [] with cdbq := [0] } : State).station id).busy = true →
      (({ start [] with cdbq := [0] } : State).station id).destRob ≠ some 0 := by decide

/-- A machine whose ROB head has written its result. -/
def written (e : RobEntry) : State :=
  { start [0] with rob := [{ e with busy := true, state := .wroteResult }, {}], entriesAvailable := 1, pc := 1, tail := 1 }

/-- The head of an ADD to F1. -/
def headAdd : State := written { instructionIndex := some 0, kind := some .add, destinationRegister := some 1 }

/-- The head of a STORE to an address. -/
def headStore (address : Int) : State :=
  written { instructionIndex := some 0, kind := some .store, value := 7, address := address, valueReady := true }

theorem witness_CommitWritesRegister : headAdd.entriesAvailable < headAdd.cfg.robSize ∧
    (headAdd.entry headAdd.head).busy = true ∧ (headAdd.entry headAdd.head).state = .wroteResult ∧
    (headAdd.entry headAdd.head).instructionIndex = some 0 ∧ (headAdd.entry headAdd.head).kind = some .add ∧
    (headAdd.entry headAdd.head).destinationRegister = some 1 := by decide
theorem witness_CommitWritesMemory : ∀ a ∈ [(0 : Int), 1023, 1024, -1],
    Memory.wf (headStore a).cfg (headStore a).mem = true ∧ (headStore a).entriesAvailable < (headStore a).cfg.robSize ∧
    ((headStore a).entry 0).busy = true ∧ ((headStore a).entry 0).state = .wroteResult ∧ (headStore a).head = 0 ∧
    ((headStore a).entry 0).instructionIndex = some 0 ∧ ((headStore a).entry 0).kind = some .store ∧
    ((headStore a).entry 0).valueReady = true ∧ ((headStore a).entry 0).address = a := by decide
theorem witness_CommitWaitsForHead : small.robSize ≤ (start []).entriesAvailable ∧
    ((start []).entry (start []).head).busy = false ∧ ((start []).entry (start []).head).state ≠ .wroteResult ∧
    ((written { kind := some .store }).entry 0).kind = some .store ∧
    ((written { kind := some .store }).entry 0).valueReady = false := by decide
theorem witness_StepIsNext : isNext (step headAdd) = true ∧ isNext (step (headStore 5)) = true := by decide
theorem witness_OnlyHeadCommits : ((stateOf (step headAdd)).stampOf 0).commit ≠ (headAdd.stampOf 0).commit := by decide
theorem witness_AtMostTwoEvents : ∀ why, decode 16 0x0110C000 ≠ .reserved why := by
  intro why
  cases why <;> decide

/-! Witnesses: states that meet the pipeline invariant -/

/-- The state after `n` steps. -/
def after : Nat → State → State
  | 0, s => s
  | n + 1, s => after n (stateOf (step s))

/-- Scenario 5 of the source (S5) after three steps: the STORE at the head has written its result, the LOAD of the same
address is at the front of the CDB queue. -/
def storeLoad : State := after 3 (start [0xA2000032, 0x83000032])

/-- The pipeline invariant from its clauses, in a form that can be decided. -/
theorem invariant_of {s : State}
    (h1 : s.cfg.Legal ∧ s.rob.length = s.cfg.robSize ∧ s.rs.add.length = s.cfg.nAdd ∧ s.rs.mul.length = s.cfg.nMul ∧
      s.rs.load.length = s.cfg.nLoad ∧ s.rs.store.length = s.cfg.nStore ∧ s.stamp.length = s.prog.length ∧
      s.pc ≤ s.prog.length ∧ s.head < s.cfg.robSize ∧ s.tail < s.cfg.robSize ∧ s.entriesAvailable ≤ s.cfg.robSize)
    (h2 : RobIsQueue s) (h3 : RenameIsYoungest s) (h4 : StationsMatchEntries s) (h5 : OperandsAreExclusive s)
    (h6 : EntryValues s) (h7 : ExecutionIsTracked s) (h8 : StampsRecord s) : PipelineInvariant s where
  shape := by
    obtain ⟨a, b, c, d, e, f, g, h, i, j, k⟩ := h1
    exact ⟨a, b, fun x => by cases x <;> assumption, g, h, i, j, k⟩
  queue := h2
  rename := h3
  stations := h4
  operands := h5
  values := h6
  tracked := h7
  stamps := h8

theorem storeLoad_invariant : PipelineInvariant storeLoad :=
  invariant_of (by decide) ⟨by decide, by decide, by decide, by decide⟩ ⟨by decide, by decide, by decide⟩
    ⟨by decide, by decide, by decide, by decide⟩ ⟨by decide, by decide, by decide, by decide, by decide, by decide⟩
    ⟨by decide, by decide⟩ ⟨by decide, by decide, by decide, by decide, by decide, by decide⟩
    ⟨by decide, by decide, by decide, by decide, by decide⟩

/-- A LOAD alone, two steps on: it is at the front of the CDB queue. -/
def loadAlone : State := after 2 (start [0x82000064])

theorem loadAlone_invariant : PipelineInvariant loadAlone :=
  invariant_of (by decide) ⟨by decide, by decide, by decide, by decide⟩ ⟨by decide, by decide, by decide⟩
    ⟨by decide, by decide, by decide, by decide⟩ ⟨by decide, by decide, by decide, by decide, by decide, by decide⟩
    ⟨by decide, by decide⟩ ⟨by decide, by decide, by decide, by decide, by decide, by decide⟩
    ⟨by decide, by decide, by decide, by decide, by decide⟩

/-- ADD, LOAD, MUL in a ROB of two entries after three steps: the ROB is full and its head has written its result. -/
def fullRob : State := after 3 (start [0x0110C000, 0x82000064, 0x46204000])

theorem fullRob_invariant : PipelineInvariant fullRob :=
  invariant_of (by decide) ⟨by decide, by decide, by decide, by decide⟩ ⟨by decide, by decide, by decide⟩
    ⟨by decide, by decide, by decide, by decide⟩ ⟨by decide, by decide, by decide, by decide, by decide, by decide⟩
    ⟨by decide, by decide⟩ ⟨by decide, by decide, by decide, by decide, by decide, by decide⟩
    ⟨by decide, by decide, by decide, by decide, by decide⟩

/-- An ADD alone after its four steps: the run is done. -/
def addDone : State := after 4 (start [0x0110C000])

theorem addDone_invariant : PipelineInvariant addDone :=
  invariant_of (by decide) ⟨by decide, by decide, by decide, by decide⟩ ⟨by decide, by decide, by decide⟩
    ⟨by decide, by decide, by decide, by decide⟩ ⟨by decide, by decide, by decide, by decide, by decide, by decide⟩
    ⟨by decide, by decide⟩ ⟨by decide, by decide, by decide, by decide, by decide, by decide⟩
    ⟨by decide, by decide, by decide, by decide, by decide⟩

theorem witness_LoadReads_committing : Memory.wf storeLoad.cfg storeLoad.mem = true ∧ isNext (step storeLoad) = true ∧
    storeLoad.cdbq = 1 :: [] ∧ st .load ∈ storeLoad.cfg.stationOrder ∧
    (storeLoad.station (st .load)).destRob = some 1 ∧ (storeLoad.station (st .load)).op = some .load ∧
    wrap storeLoad.cfg.xlen ((storeLoad.station (st .load)).a + (storeLoad.station (st .load)).vk) = 60 ∧
    (storeLoad.entry storeLoad.head).kind = some .store ∧ (storeLoad.entry storeLoad.head).state = .wroteResult ∧
    (storeLoad.entry storeLoad.head).address = 60 ∧ storeLoad.cfg.memSize = 1024 := by decide
theorem witness_LoadReads_memory : Memory.wf loadAlone.cfg loadAlone.mem = true ∧ isNext (step loadAlone) = true ∧
    loadAlone.cdbq = 0 :: [] ∧ st .load ∈ loadAlone.cfg.stationOrder ∧
    (loadAlone.station (st .load)).destRob = some 0 ∧ (loadAlone.station (st .load)).op = some .load ∧
    wrap loadAlone.cfg.xlen ((loadAlone.station (st .load)).a + (loadAlone.station (st .load)).vk) = 110 ∧
    (loadAlone.entry loadAlone.head).kind ≠ some .store ∧ loadAlone.cfg.memSize = 1024 := by decide
theorem witness_FullRob : fullRob.entriesAvailable = 0 ∧ (fullRob.entry fullRob.head).state = .wroteResult ∧
    fullRob.prog[fullRob.pc]? = some 0x46204000 ∧ decode 16 0x46204000 = .instr (.mul 6 4 1) ∧
    st .mul ∈ fullRob.cfg.stationOrder ∧ (st .mul).group = groupOf .mul ∧
    (fullRob.station (st .mul)).busy = false := by decide
theorem witness_DoneIsAllCommitted : (∀ i < addDone.prog.length, (addDone.stampOf i).commit ≠ none) ∧
    addDone.done = true := by decide
theorem witness_StoreBroadcast : (storeLoad.entry 0).kind = some .store ∧ st .load ∈ storeLoad.cfg.stationOrder := by
  decide
theorem witness_AtMostOneRename : (storeLoad.rename 3).busy = true ∧ (storeLoad.entry 0).kind = some .store := by decide
theorem witness_DataInRange : 1 ≤ storeLoad.cfg.xlen ∧ DataInRange storeLoad ∧ isNext (step storeLoad) = true :=
  ⟨by decide, ⟨by decide, by decide, by decide, by decide⟩, by decide⟩

/-! Witnesses: idle states, runs, arithmetic -/

theorem resetWith_idle {c : Config} {program : List InstrWord} (h : c.Legal) : Idle (State.resetWith c program) where
  shape := {
    legal := h
    robLength := List.length_replicate
    groupLength := fun g => by cases g <;> exact List.length_replicate
    stampLength := List.length_replicate
    pcRange := Nat.zero_le _
    headRange := h.2.2.2.1
    tailRange := h.2.2.2.1
    availableRange := Nat.le_refl _ }
  available := rfl
  pointers := rfl
  entries := rfl
  stations := fun g => by cases g <;> rfl
  tracker := rfl
  queue := rfl
  rename := rfl

theorem start_idle {program : List InstrWord} : Idle (start program) := resetWith_idle (by decide)

theorem witness_ArithmeticLife : Idle (start [0x6110C000]) ∧ (start [0x6110C000]).prog[(start [0x6110C000]).pc]? =
    some 0x6110C000 ∧ (start [0x6110C000]).pc + 1 = (start [0x6110C000]).prog.length ∧
    decode 16 0x0110C000 = .instr (.add 1 2 3) ∧ decode 16 0x24094000 = .instr (.sub 4 1 5) ∧
    decode 16 0x46204000 = .instr (.mul 6 4 1) ∧ decode 16 0x6110C000 = .instr (.div 1 2 3) :=
  ⟨start_idle, by decide⟩
/-- A LOAD's or STORE's words F2, offset(F0) that address 0, 1023, 1024 and -1 (F0 = 10), with their offsets (2.2). -/
def boundaryOffsets : List (Nat × Int × Int) := [(0xFFF6, -10, 0), (0x03F5, 1013, 1023), (0x03F6, 1014, 1024), (0xFFF5, -11, -1)]

theorem witness_LoadLife : ∀ x ∈ boundaryOffsets,
    let w : InstrWord := BitVec.ofNat 32 (0x82000000 + x.1)
    Idle (start [w]) ∧ (start [w]).prog[(start [w]).pc]? = some w ∧ (start [w]).pc + 1 = (start [w]).prog.length ∧
    decode 16 w = .instr (.load 2 x.2.1 0) ∧ wrap small.xlen (x.2.1 + (start [w]).reg 0) = x.2.2 :=
  fun x hx => ⟨start_idle, by revert x; decide⟩
theorem witness_StoreLife : ∀ x ∈ boundaryOffsets,
    let w : InstrWord := BitVec.ofNat 32 (0xA2000000 + x.1)
    Idle (start [w]) ∧ Memory.wf small (start [w]).mem = true ∧ (start [w]).prog[(start [w]).pc]? = some w ∧
    (start [w]).pc + 1 = (start [w]).prog.length ∧
    decode 16 w = .instr (.store 2 x.2.1 0) ∧ wrap small.xlen (x.2.1 + (start [w]).reg 0) = x.2.2 :=
  fun x hx => ⟨start_idle, by revert x; decide⟩
theorem witness_LoadThenStore : Idle (start [0x81000064, 0xA10000C8]) ∧
    Memory.wf small (start [0x81000064, 0xA10000C8]).mem = true ∧
    (start [0x81000064, 0xA10000C8]).prog[0]? = some 0x81000064 ∧
    (start [0x81000064, 0xA10000C8]).prog[0 + 1]? = some 0xA10000C8 ∧
    decode 16 0x81000064 = .instr (.load 1 100 0) ∧ decode 16 0xA10000C8 = .instr (.store 1 200 0) ∧
    wrap 32 (100 + (start []).reg 0) = 110 ∧ wrap 32 (200 + (start []).reg 0) = 210 :=
  ⟨start_idle, by decide⟩
theorem witness_LoadThenStore_oneEntry : Idle (State.resetWith { small with robSize := 1 } [0x81000064, 0xA10000C8]) :=
  resetWith_idle (by decide)
theorem witness_LoadThenStore_sameBase : Idle (start [0x81000064, 0xA10800C8]) ∧
    decode 16 0xA10800C8 = .instr (.store 1 200 1) ∧ Memory.read small [] 110 = 110 ∧
    wrap 32 (200 + Memory.read small [] 110) = 310 :=
  ⟨start_idle, by decide⟩

/-- Scenario S5 with the LOAD at another address: `S.D F2,50(F0)` and `L.D F2,100(F0)`. -/
def twoAddresses : List InstrWord := [0xA2000032, 0x82000064]

theorem witness_RunEnds : small.Legal ∧
    twoAddresses.map (decode 16) = [.store 2 50 0, .load 2 100 0].map Decoded.instr ∧
    NoAliasedLoadAfterStore ((start twoAddresses).arch.accesses small [.store 2 50 0, .load 2 100 0]) ∧
    isNext (Host.Core.run Sys2Proof.core 5 (start twoAddresses)) = true ∧ (after 5 (start twoAddresses)).done = true :=
  ⟨by decide, by decide,
    show List.Pairwise _ [some (Kind.store, (60 : Int)), some (Kind.load, (110 : Int))] by simp, by decide, by decide⟩
theorem witness_StaleLoad : small.Legal ∧
    [0xA2000032, 0x83000032].map (decode 16) = [.store 2 50 0, .load 3 50 0].map Decoded.instr ∧
    isNext (Host.Core.run Sys2Proof.core 5 (start [0xA2000032, 0x83000032])) = true ∧
    (after 5 (start [0xA2000032, 0x83000032])).done = true ∧
    StoresCommitBeforeLoads ((start [0xA2000032, 0x83000032]).arch.accesses small [.store 2 50 0, .load 3 50 0])
      (after 5 (start [0xA2000032, 0x83000032])) := by
  refine ⟨by decide, by decide, by decide, by decide, ?_⟩
  intro i j a hij hi hj
  have hl : (start [0xA2000032, 0x83000032]).arch.accesses small [.store 2 50 0, .load 3 50 0] =
      [some (.store, 60), some (.load, 60)] := by decide
  rw [hl] at hi hj
  match i, j with
  | 0, 0 => omega
  | 0, 1 => decide
  | 0, _ + 2 => simp at hj
  | 1, _ => simp at hi
  | _ + 2, _ => simp at hi
theorem witness_EveryProgramTerminates : small.Legal ∧ ∀ k : Kind, latency small k ≤ 40 :=
  ⟨by decide, fun k => by cases k <;> decide⟩
theorem witness_Wrap : InRange 32 7 ∧ ((2 ^ 32 : Nat) : Int) ∣ 7 - (7 + 4294967296) := by decide
theorem witness_Division : ({} : Config).divRound = .towardZero ∧ 2 ≤ ({} : Config).xlen ∧ InRange 32 (-7) ∧
    InRange 32 0 ∧ InRange 32 2 ∧ (2 : Int) ≠ 0 ∧ ¬ ((-7 : Int) = intMin 32 ∧ (2 : Int) = -1) := by decide

end Sys2Proof.Tests
end

section
/-! PROOF. `wrap` and the range of a data value (R6, R9): what `wrap` gives at every width from 1 up. -/

namespace Sys2Proof.Machine

variable {xlen : Nat} {v z : Int}

/-- The range of R9 in the form of the bounds of `Int.bmod`. It fails at width 0, where `INT_MIN` is -1. -/
theorem inRange_iff_halfModulus (hx : 1 ≤ xlen) :
    InRange xlen v ↔ -(((2 ^ xlen : Nat) : Int) / 2) ≤ v ∧ v < (((2 ^ xlen : Nat) : Int) + 1) / 2 := by
  have hpow : 2 ^ (xlen - 1) * 2 = 2 ^ xlen := Nat.two_pow_pred_mul_two hx
  unfold InRange intMin intMax
  omega

/-- The characterization of `wrap` (R9), from which the range, uniqueness and identity facts follow. -/
theorem wrap_eq_iff (hx : 1 ≤ xlen) :
    wrap xlen z = v ↔ InRange xlen v ∧ ((2 ^ xlen : Nat) : Int) ∣ v - z := by
  rw [inRange_iff_halfModulus hx, and_assoc]
  exact Int.bmod_eq_iff (Nat.two_pow_pos xlen)

theorem inRange_wrap (hx : 1 ≤ xlen) : InRange xlen (wrap xlen z) :=
  ((wrap_eq_iff hx).mp rfl).1

theorem dvd_wrap_sub_self (xlen : Nat) (z : Int) : ((2 ^ xlen : Nat) : Int) ∣ wrap xlen z - z :=
  Int.dvd_bmod_sub_self

theorem wrap_eq_self (hx : 1 ≤ xlen) (hz : InRange xlen z) : wrap xlen z = z :=
  (wrap_eq_iff hx).mpr ⟨hz, by simp⟩

/-- Settles O52: uniqueness is the backward direction of `wrap_eq_iff`. -/
theorem wrapIsTheRepresentable : Obligations.WrapIsTheRepresentable := by
  intro xlen z hx
  refine ⟨inRange_wrap hx, dvd_wrap_sub_self xlen z, ?unique, wrap_eq_self hx⟩
  case unique =>
    intro v hv hdvd
    exact ((wrap_eq_iff hx).mpr ⟨hv, hdvd⟩).symm

end Sys2Proof.Machine
end

section
/-! PROOF. The places of the tables: which identities name a station (R31), which slots of the ROB are in flight
(R50). -/

namespace Sys2Proof.Machine

/-! The clauses of a legal configuration -/

section legal

variable {c : Config} (h : c.Legal)
include h

theorem legal_regInit_inRange : InRange c.xlen c.regInit := by
  obtain ⟨-, -, hreg, -⟩ := h
  exact hreg

theorem legal_robSize_pos : 0 < c.robSize := by
  obtain ⟨-, -, -, hrob, -⟩ := h
  exact hrob

theorem legal_scanOrder_perm : c.scanOrder.Perm c.stationOrder := by
  obtain ⟨-, -, -, -, -, -, -, -, -, -, -, -, -, -, -, hscan⟩ := h
  exact hscan

end legal

/-! The station order -/

theorem mem_stationOrder {c : Config} {id : StationId} : id ∈ c.stationOrder ↔ id.index < c.groupSize id.group := by
  obtain ⟨g, k⟩ := id
  cases g <;> simp [Config.stationOrder, orderedStations, Config.groupSize]

theorem length_stationOrder (c : Config) : c.stationOrder.length = c.stationCount := by
  simp [Config.stationOrder, orderedStations, Config.stationCount, Nat.add_assoc]

variable {s : State}

theorem stationExists_of_mem {id : StationId} (h : Shape s) (hid : id ∈ s.cfg.stationOrder) :
    s.stationExists id = true := by
  simpa [State.stationExists, h.groupLength] using mem_stationOrder.mp hid

theorem mem_of_stationExists {id : StationId} (h : Shape s) (hid : s.stationExists id = true) :
    id ∈ s.cfg.stationOrder := by
  rw [mem_stationOrder, ← h.groupLength]
  simpa [State.stationExists] using hid

theorem mem_toList {p : StationPool} {q : Station} : q ∈ p.toList ↔ ∃ g, q ∈ p.group g := by
  constructor
  · intro h
    simp only [StationPool.toList, List.mem_append] at h
    obtain ((h | h) | h) | h := h
    exacts [⟨.add, h⟩, ⟨.mul, h⟩, ⟨.load, h⟩, ⟨.store, h⟩]
  · rintro ⟨g, h⟩
    cases g <;> simp_all [StationPool.toList, StationPool.group]

/-- The pool's list holds the stations of the station order. -/
theorem mem_toList_iff (h : Shape s) {q : Station} :
    q ∈ s.rs.toList ↔ ∃ id ∈ s.cfg.stationOrder, s.station id = q := by
  rw [mem_toList]
  constructor
  · rintro ⟨g, hq⟩
    obtain ⟨k, hk, rfl⟩ := List.mem_iff_getElem.mp hq
    refine ⟨⟨g, k⟩, mem_stationOrder.mpr (h.groupLength g ▸ hk), ?_⟩
    simp [State.station, hk]
  · rintro ⟨id, hid, rfl⟩
    have hk : id.index < (s.rs.group id.group).length := h.groupLength _ ▸ mem_stationOrder.mp hid
    exact ⟨id.group, by simp [State.station, hk]⟩

@[simp] theorem group_map (p : StationPool) (f : Station → Station) (g : StationGroup) :
    (p.map f).group g = (p.group g).map f := by
  cases g <;> rfl

theorem group_set (p : StationPool) (id : StationId) (q : Station) (g : StationGroup) :
    (p.set id q).group g = if id.group = g then (p.group g).set id.index q else p.group g := by
  obtain ⟨g', k⟩ := id
  cases g' <;> cases g <;> rfl

/-- The lengths of the groups survive the write of a station. -/
@[simp] theorem length_group_set (p : StationPool) (id : StationId) (q : Station) (g : StationGroup) :
    ((p.set id q).group g).length = (p.group g).length := by
  rw [group_set]
  split
  · exact List.length_set
  · rfl

theorem station_setStation {id : StationId} (q : Station) (h : s.stationExists id = true) (id' : StationId) :
    (s.setStation id q).station id' = if id' = id then q else s.station id' := by
  split
  next heq => rw [heq, station_setStation_same s q h]
  next hne => exact station_setStation_other s q hne

/-! The reorder buffer -/

theorem entry_of_length_le {p : Nat} (h : s.rob.length ≤ p) : s.entry p = {} := by
  simp [State.entry, h]

theorem entry_setEntry {p : Nat} (e : RobEntry) (h : p < s.rob.length) (p' : Nat) :
    (s.setEntry p e).entry p' = if p' = p then e else s.entry p' := by
  split
  next heq => rw [heq, entry_setEntry_same s e h]
  next hne => exact entry_setEntry_other s e hne

/-- Freeing an entry needs no bound: an index outside the table reads as an empty entry. -/
theorem entry_setEntry_empty (p p' : Nat) :
    (s.setEntry p {}).entry p' = if p' = p then {} else s.entry p' := by
  by_cases h : p < s.rob.length
  · exact entry_setEntry {} h p'
  · split
    next heq => exact entry_of_length_le (by simpa [heq] using h)
    next hne => exact entry_setEntry_other s {} hne

theorem stampOf_setStamp {i : Nat} (f : Stamps → Stamps) (h : i < s.stamp.length) (i' : Nat) :
    (s.setStamp i f).stampOf i' = if i' = i then f (s.stampOf i) else s.stampOf i' := by
  split
  next heq => rw [heq, stampOf_setStamp_same s f h]
  next hne => exact stampOf_setStamp_other s f hne

theorem rename_setRename (r : RegIdx) (x : RegStatus) (r' : RegIdx) :
    (s.setRename r x).rename r' = if r' = r then x else s.rename r' := by
  split
  next heq => rw [heq, rename_setRename_same s r x]
  next hne => exact rename_setRename_other s x hne

theorem Shape.robSize_pos (h : Shape s) : 0 < s.cfg.robSize := Nat.zero_lt_of_lt h.headRange

theorem slot_lt (h : Shape s) (j : Nat) : s.slot j < s.cfg.robSize := Nat.mod_lt _ h.robSize_pos

theorem slot_zero (h : Shape s) : s.slot 0 = s.head := Nat.mod_eq_of_lt h.headRange

theorem nextIndex_slot (j : Nat) : nextIndex s.cfg (s.slot j) = s.slot (j + 1) := by
  simp [nextIndex, State.slot, Nat.add_assoc]

/-- Two places of the queue are two slots. -/
theorem slot_inj {j j' : Nat} (hj : j < s.cfg.robSize) (hj' : j' < s.cfg.robSize)
    (heq : s.slot j = s.slot j') : j = j' := by
  have hmod : j ≡ j' [MOD s.cfg.robSize] := Nat.ModEq.add_left_cancel' s.head heq
  rwa [Nat.ModEq, Nat.mod_eq_of_lt hj, Nat.mod_eq_of_lt hj'] at hmod

/-- Every index of the table is a slot. -/
theorem exists_slot (h : Shape s) {p : Nat} (hp : p < s.cfg.robSize) : ∃ j < s.cfg.robSize, s.slot j = p := by
  have hhead := h.headRange
  rcases Nat.lt_or_ge p s.head with hlt | hge
  · refine ⟨p + s.cfg.robSize - s.head, by omega, ?_⟩
    rw [State.slot, show s.head + (p + s.cfg.robSize - s.head) = p + s.cfg.robSize by omega, Nat.add_mod_right,
      Nat.mod_eq_of_lt hp]
  · exact ⟨p - s.head, by omega, by rw [State.slot, Nat.add_sub_cancel' hge, Nat.mod_eq_of_lt hp]⟩

theorem inFlight_le (s : State) : s.inFlight ≤ s.cfg.robSize := Nat.sub_le _ _

/-- An entry that is not empty belongs to an instruction in flight. -/
theorem RobIsQueue.place (hq : RobIsQueue s) (h : Shape s) {p : Nat} (hp : s.entry p ≠ {}) :
    ∃ j < s.inFlight, s.slot j = p ∧ (s.entry p).Live (s.pc - s.inFlight + j) := by
  have hlt : p < s.cfg.robSize := by
    rw [← h.robLength]
    exact Nat.lt_of_not_le fun hle => hp (entry_of_length_le hle)
  obtain ⟨j, hj, rfl⟩ := exists_slot h hlt
  have hfly : j < s.inFlight := Nat.lt_of_not_le fun hle => hp (hq.free j hj hle)
  exact ⟨j, hfly, rfl, hq.live j hfly⟩

/-- With an entry free, the tail slot is empty. -/
theorem RobIsQueue.tail_free (hq : RobIsQueue s) (h : Shape s) (hfree : 0 < s.entriesAvailable) :
    s.entry s.tail = {} := by
  rw [hq.tailPlace]
  have := h.availableRange
  exact hq.free _ (by unfold State.inFlight; omega) (Nat.le_refl _)

theorem RobEntry.Pending.ne_empty {e : RobEntry} (h : e.Pending) : e ≠ {} := by
  rintro rfl
  simp [RobEntry.Pending] at h

theorem RobEntry.ne_empty_of_busy {e : RobEntry} (h : e.busy = true) : e ≠ {} := by
  rintro rfl
  cases h

theorem RobEntry.ne_empty_of_dest {e : RobEntry} {r : RegIdx} (h : e.destinationRegister = some r) : e ≠ {} := by
  rintro rfl
  cases h

section live

variable {e : RobEntry} {i : Nat} (h : e.Live i)
include h

theorem RobEntry.Live.entryBusy : e.busy = true := by
  obtain ⟨hbusy, -⟩ := h
  exact hbusy

theorem RobEntry.Live.index : e.instructionIndex = some i := by
  obtain ⟨-, -, hi, -⟩ := h
  exact hi

theorem RobEntry.Live.dest_iff : e.destinationRegister = none ↔ e.kind = some .store := by
  obtain ⟨-, -, -, -, hd⟩ := h
  exact hd

theorem RobEntry.Live.age_eq : e.age = i := by
  simp [RobEntry.age, h.index]

end live

/-- An instruction in flight has been issued. -/
theorem RobIsQueue.index_lt_pc (hq : RobIsQueue s) {j : Nat} (hj : j < s.inFlight) : s.pc - s.inFlight + j < s.pc := by
  have := hq.issued
  omega

end Sys2Proof.Machine
end

section
/-! PROOF. The pipeline invariant between the phases of a cycle, and how it comes from and leads to the one at its
ends. -/

namespace Sys2Proof.Machine

/-- `ExecutionIsTracked` between the phases of a cycle: a record may have counted down to 0 (R147), and a station with
both operands may still have to be dispatched (R140). -/
structure TrackedMidCycle (s : State) : Prop where
  recordsDistinct : (s.fu.map FuRecord.rs).Nodup
  record : ∀ f ∈ s.fu, s.Running f.rs ∧ (s.station f.rs).instructionIndex = some f.instructionIndex
  queueDistinct : s.cdbq.Nodup
  queued : ∀ b ∈ s.cdbq, b < s.cfg.robSize ∧ (s.entry b).state = .executing ∧
    ∀ id ∈ s.cfg.stationOrder, (s.station id).producesInto b = true → s.Running id ∧ id ∉ s.fu.map FuRecord.rs
  executing : ∀ id ∈ s.cfg.stationOrder, (s.station id).busy = true → ∀ b ∈ (s.station id).destRob,
    (s.entry b).state = .executing → id ∈ s.fu.map FuRecord.rs ∨ b ∈ s.cdbq

/-- A station that is not dispatched waits for an operand (R140): what Execute-Start restores. -/
def State.Waits (s : State) (id : StationId) : Prop :=
  (s.station id).busy = true → ∀ b ∈ (s.station id).destRob, (s.entry b).state = .issued →
    (s.station id).qj ≠ none ∨ (s.station id).qk ≠ none

/-- The stamps `x` of an instruction in flight record the stages that its entry `p` has passed (R38). -/
def State.FlightStamps (s : State) (x : Stamps) (p : Nat) : Prop :=
  x.issue.isSome = true ∧
  (x.executionComplete.isSome = true ↔ (s.entry p).state = .wroteResult ∨ p ∈ s.cdbq) ∧
  (x.writeResult.isSome = true ↔ (s.entry p).state = .wroteResult) ∧
  x.commit = none

/-- `StampsRecord` between the phases of a cycle: this cycle's own stamps are among those set. -/
structure StampsMidCycle (s : State) : Prop where
  ordered : ∀ i < s.prog.length, (s.stampOf i).Ordered (s.cycle + 1)
  unissued : ∀ i < s.prog.length, s.pc ≤ i → s.stampOf i = {}
  committed : ∀ i < s.prog.length, i < s.pc - s.inFlight → (s.stampOf i).commit.isSome = true
  flying : ∀ j < s.inFlight, s.FlightStamps (s.stampOf (s.pc - s.inFlight + j)) (s.slot j)
  inOrder : ∀ i < s.prog.length, ∀ i' < i, ∀ x ∈ (s.stampOf i).commit, ∃ x' ∈ (s.stampOf i').commit, x' < x

/-- The pipeline invariant between the phases of a cycle. -/
structure MidCycle (s : State) : Prop where
  shape : Shape s
  queue : RobIsQueue s
  rename : RenameIsYoungest s
  stations : StationsMatchEntries s
  operands : OperandsAreExclusive s
  values : EntryValues s
  tracked : TrackedMidCycle s
  stamps : StampsMidCycle s

variable {s : State}

/-- The station of a running instruction is busy. -/
theorem State.Running.stationBusy {id : StationId} (h : s.Running id) : (s.station id).busy = true := by
  obtain ⟨-, hbusy, -⟩ := h
  exact hbusy

theorem State.Running.executing {id : StationId} {b : Nat} (h : s.Running id)
    (hb : (s.station id).destRob = some b) : (s.entry b).state = .executing := by
  obtain ⟨-, -, -, -, hst⟩ := h
  exact hst b hb

theorem TrackedMidCycle.queued_executing (h : TrackedMidCycle s) {b : Nat} (hb : b ∈ s.cdbq) :
    (s.entry b).state = .executing := by
  obtain ⟨-, hst, -⟩ := h.queued b hb
  exact hst

/-- The station behind a queue element runs, and is in no record. -/
theorem TrackedMidCycle.queued_station (h : TrackedMidCycle s) {b : Nat} {id : StationId} (hb : b ∈ s.cdbq)
    (hid : id ∈ s.cfg.stationOrder) (hprod : (s.station id).producesInto b = true) :
    s.Running id ∧ id ∉ s.fu.map FuRecord.rs := by
  obtain ⟨-, -, hstation⟩ := h.queued b hb
  exact hstation id hid hprod

theorem ExecutionIsTracked.midCycle (h : ExecutionIsTracked s) : TrackedMidCycle s where
  recordsDistinct := h.recordsDistinct
  record f hf := by
    obtain ⟨hrun, hi, -⟩ := h.record f hf
    exact ⟨hrun, hi⟩
  queueDistinct := h.queueDistinct
  queued := h.queued
  executing := h.executing

theorem Stamps.Ordered.mono {x : Stamps} {now later : Nat} (h : x.Ordered now) (hle : now ≤ later) :
    x.Ordered later := by
  obtain ⟨hi, he, hw, hc⟩ := h
  refine ⟨fun i hx => (hi i hx).trans_le hle, fun e hx => (he e hx).imp_left ?_, fun w hx => (hw w hx).imp_left ?_,
    fun c hx => (hc c hx).imp_left ?_⟩ <;>
    exact fun hlt => hlt.trans_le hle

theorem StampsRecord.midCycle (h : StampsRecord s) : StampsMidCycle s where
  ordered i hi := (h.ordered i hi).mono (Nat.le_succ _)
  unissued := h.unissued
  committed := h.committed
  flying := h.flying
  inOrder := h.inOrder

theorem StampsMidCycle.tick (h : StampsMidCycle s) : StampsRecord s.tick where
  ordered := h.ordered
  unissued := h.unissued
  committed := h.committed
  flying := h.flying
  inOrder := h.inOrder

/-- No instruction from the head on has committed. -/
theorem StampsMidCycle.commit_eq_none (h : StampsMidCycle s) (hq : RobIsQueue s) {n : Nat} (hlen : n < s.prog.length)
    (hn : s.pc - s.inFlight ≤ n) : (s.stampOf n).commit = none := by
  rcases Nat.lt_or_ge n s.pc with hpc | hpc
  · have hissued := hq.issued
    obtain ⟨-, -, -, hnone⟩ := h.flying (n - (s.pc - s.inFlight)) (by omega)
    rwa [Nat.add_sub_cancel' hn] at hnone
  · rw [h.unissued n hlen hpc]

theorem PipelineInvariant.midCycle (h : PipelineInvariant s) : MidCycle s where
  shape := h.shape
  queue := h.queue
  rename := h.rename
  stations := h.stations
  operands := h.operands
  values := h.values
  tracked := h.tracked.midCycle
  stamps := h.stamps.midCycle

/-- The cycle ends with every record still counting and every undispatched station waiting. -/
theorem MidCycle.endOfCycle (h : MidCycle s) (hfu : ∀ f ∈ s.fu, 1 ≤ f.remaining)
    (hwait : ∀ id ∈ s.cfg.stationOrder, s.Waits id) : PipelineInvariant s.tick where
  shape := { h.shape with }
  queue := { h.queue with }
  rename := { h.rename with }
  stations := { h.stations with }
  operands := { h.operands with }
  values := { h.values with }
  tracked := { h.tracked with
    record := fun f hf => ⟨(h.tracked.record f hf).1, (h.tracked.record f hf).2, hfu f hf⟩
    waiting := hwait }
  stamps := h.stamps.tick

/-- `s` with other registers, memory and output: the tables of the pipeline are those of `s`. -/
def State.withArch (s : State) (regs : Vector Int 32) (mem : Memory) (events : List Diagnostic) : State :=
  { s with regs := regs, mem := mem, diagOut := events }

variable {regs : Vector Int 32} {mem : Memory} {events : List Diagnostic}

theorem MidCycle.withArch (h : MidCycle s) : MidCycle (s.withArch regs mem events) where
  shape := { h.shape with }
  queue := { h.queue with }
  rename := { h.rename with }
  stations := { h.stations with }
  operands := { h.operands with }
  values := { h.values with }
  tracked := { h.tracked with }
  stamps := { h.stamps with }

theorem PipelineInvariant.withArch (h : PipelineInvariant s) : PipelineInvariant (s.withArch regs mem events) where
  shape := { h.shape with }
  queue := { h.queue with }
  rename := { h.rename with }
  stations := { h.stations with }
  operands := { h.operands with }
  values := { h.values with }
  tracked := { h.tracked with }
  stamps := { h.stamps with }

end Sys2Proof.Machine
end

section
/-! PROOF. Commit keeps the pipeline invariant (R175 to R184): the queue loses its front, and the rename table the row
that names it. -/

namespace Sys2Proof.Machine

/-- The tables of `s` after instruction `i` at the ROB head retires: the head slot is free, `i` has its commit stamp,
and `status` is the new rename table (R177, R179, R182). -/
def State.retired (s : State) (i : Nat) (status : Vector RegStatus 32) : State :=
  { s with
    regStatus := status
    rob := s.rob.set s.head {}
    head := nextIndex s.cfg s.head
    entriesAvailable := s.entriesAvailable + 1
    stamp := s.stamp.set i { s.stampOf i with commit := some s.cycle } }

/-- The conditional un-rename (R179): `status` is the rename table of `s` without the row that names the head. -/
def State.HeadUnrenamed (s : State) (status : Vector RegStatus 32) : Prop :=
  ∀ r : RegIdx, status[r] =
    if (s.entry s.head).destinationRegister = some r ∧ (s.rename r).busy = true ∧
      (s.rename r).robIndex = some s.head then {} else s.rename r

variable {s t : State} {i : Nat} {status : Vector RegStatus 32}

/-- The rename table after a conditional un-rename. -/
def State.unrenamedStatus (s : State) (r : RegIdx) (p : Nat) : Vector RegStatus 32 :=
  if (s.rename r).busy ∧ (s.rename r).robIndex = some p then s.regStatus.set r {} else s.regStatus

theorem unrename_eq (s : State) (r : RegIdx) (p : Nat) :
    s.unrename r p = { s with regStatus := s.unrenamedStatus r p } := by
  unfold State.unrename State.unrenamedStatus
  split <;> rfl

theorem unrenamedStatus_get (r : RegIdx) (p : Nat) (r' : RegIdx) : (s.unrenamedStatus r p)[r'] =
    if r = r' ∧ (s.rename r').busy = true ∧ (s.rename r').robIndex = some p then {} else s.rename r' := by
  unfold State.unrenamedStatus
  by_cases hr : r = r'
  · subst hr
    simp only [true_and]
    split
    · exact rename_setRename_same s r {}
    · rfl
  · rw [if_neg fun hcut : r = r' ∧ _ => hr hcut.1]
    split
    · exact rename_setRename_other s {} (Ne.symm hr)
    · rfl

/-- Commit waits, or retires the head (R175 to R184). A STORE's entry has no destination. -/
theorem commit_retires (h : commit s = .next t)
    (hstore : (s.entry s.head).kind = some .store → (s.entry s.head).destinationRegister = none) :
    t = s ∨ s.commitReady = true ∧ ∃ i status regs mem events, (s.entry s.head).instructionIndex = some i ∧
      s.HeadUnrenamed status ∧ t = (s.retired i status).withArch regs mem events := by
  obtain ⟨-, rfl⟩ | ⟨hr, i, hi, ⟨hk, rfl⟩ | ⟨-, -, r, hd, rfl⟩⟩ := commit_cases h
  · exact .inl rfl
  · refine .inr ⟨hr, i, s.regStatus, _, _, _, hi, fun r => ?_, rfl⟩
    simp [hstore hk, State.rename]
  · refine .inr ⟨hr, i, s.unrenamedStatus r s.head, s.regs.set r (s.entry s.head).value,
      s.mem, s.diagOut, hi, fun r' => ?_, ?_⟩
    · simp only [unrenamedStatus_get, hd, Option.some.injEq]
    · rw [State.commitRegister, unrename_eq]
      rfl

/-! The tables after the head retired -/

theorem retired_entry (p : Nat) : (s.retired i status).entry p = if p = s.head then {} else s.entry p :=
  entry_setEntry_empty s.head p

theorem retired_entry_of_ne {p : Nat} (h : p ≠ s.head) : (s.retired i status).entry p = s.entry p := by
  rw [retired_entry, if_neg h]

theorem retired_inFlight : (s.retired i status).inFlight = s.inFlight - 1 := Nat.sub_succ _ _

theorem retired_slot (j : Nat) : (s.retired i status).slot j = s.slot (j + 1) := by
  simp [State.slot, State.retired, nextIndex, Nat.add_assoc, Nat.add_comm 1 j]

theorem retired_stampOf (hi : i < s.stamp.length) (i' : Nat) : (s.retired i status).stampOf i' =
    if i' = i then { s.stampOf i with commit := some s.cycle } else s.stampOf i' :=
  stampOf_setStamp (fun x => { x with commit := some s.cycle }) hi i'

/-- What Commit's test says of a state that meets the invariant (R175, R176). -/
structure HeadRetires (s : State) (i : Nat) : Prop where
  inv : PipelineInvariant s
  flying : 0 < s.inFlight
  written : (s.entry s.head).state = .wroteResult
  index : i = s.pc - s.inFlight
  live : (s.entry s.head).Live i

theorem PipelineInvariant.headRetires (h : PipelineInvariant s) (hr : s.commitReady = true)
    (hi : (s.entry s.head).instructionIndex = some i) : HeadRetires s i := by
  obtain ⟨havail, -, hst, -⟩ := (commitReady_iff s).mp hr
  have hfly : 0 < s.inFlight := Nat.sub_pos_of_lt havail
  have hlive := h.queue.live 0 hfly
  rw [slot_zero h.shape] at hlive
  obtain rfl : i = s.pc - s.inFlight := Option.some.inj (hi.symm.trans hlive.index)
  exact ⟨h, hfly, hst, rfl, hlive⟩

namespace HeadRetires

variable (h : HeadRetires s i)
include h

theorem lt_pc : i < s.pc := by
  have := h.inv.queue.issued
  have := h.flying
  have := h.index
  omega

theorem inFlight : (s.retired i status).inFlight + 1 = s.inFlight := by
  rw [retired_inFlight]
  exact Nat.sub_add_cancel h.flying

theorem head_eq_slot : s.head = s.slot 0 := (slot_zero h.inv.shape).symm

/-- A pending entry is not the head. -/
theorem entry_of_pending {p : Nat} (hp : (s.entry p).Pending) : (s.retired i status).entry p = s.entry p := by
  refine retired_entry_of_ne ?_
  rintro rfl
  simp [RobEntry.Pending, h.written] at hp

theorem entry_of_slot {j : Nat} (hj : j + 1 < s.cfg.robSize) :
    (s.retired i status).entry (s.slot (j + 1)) = s.entry (s.slot (j + 1)) := by
  refine retired_entry_of_ne fun heq => ?_
  rw [h.head_eq_slot] at heq
  exact absurd (slot_inj hj (by omega) heq) (Nat.succ_ne_zero j)

omit h in
/-- An entry of the state afterwards was one of the state before, and not the head. -/
theorem entry_before {p : Nat} (hp : (s.retired i status).entry p ≠ {}) :
    p ≠ s.head ∧ (s.retired i status).entry p = s.entry p := by
  rw [retired_entry] at hp ⊢
  split at hp
  · exact absurd rfl hp
  · next hne => exact ⟨hne, if_neg hne⟩

theorem shape : Shape (s.retired i status) where
  legal := h.inv.shape.legal
  robLength := by simp [State.retired, h.inv.shape.robLength]
  groupLength := h.inv.shape.groupLength
  stampLength := by simp [State.retired, h.inv.shape.stampLength]
  pcRange := h.inv.shape.pcRange
  headRange := Nat.mod_lt _ h.inv.shape.robSize_pos
  tailRange := h.inv.shape.tailRange
  availableRange := by
    have := h.flying
    unfold State.inFlight at this
    simp only [State.retired]
    omega

theorem queue : RobIsQueue (s.retired i status) := by
  have hfly := h.inFlight (status := status)
  have hissued := h.inv.queue.issued
  have hle := inFlight_le s
  refine ⟨?issued, ?tailPlace, fun j hj => ?live, fun j hj hge => ?free⟩
  case issued =>
    change _ ≤ s.pc
    omega
  case tailPlace =>
    rw [retired_slot, hfly]
    exact h.inv.queue.tailPlace
  case live =>
    rw [retired_slot, h.entry_of_slot (by omega)]
    convert h.inv.queue.live (j + 1) (by omega) using 1
    change s.pc - _ + j = _
    omega
  case free =>
    rw [retired_slot]
    rcases Nat.lt_or_ge (j + 1) s.cfg.robSize with hlt | hlast
    · rw [h.entry_of_slot hlt]
      exact h.inv.queue.free (j + 1) hlt (by omega)
    · have hj : j + 1 = s.cfg.robSize := Nat.le_antisymm hj hlast
      rw [retired_entry, if_pos]
      rw [hj, State.slot, Nat.add_mod_right, Nat.mod_eq_of_lt h.inv.shape.headRange]

/-- The head is the oldest instruction in flight. -/
theorem age_lt {p : Nat} (hp : s.entry p ≠ {}) (hne : p ≠ s.head) : (s.entry s.head).age < (s.entry p).age := by
  obtain ⟨j, hj, rfl, hlive⟩ := h.inv.queue.place h.inv.shape hp
  rw [h.live.age_eq, hlive.age_eq, h.index]
  have : j ≠ 0 := by
    rintro rfl
    exact hne h.head_eq_slot.symm
  omega

theorem rename (hs : s.HeadUnrenamed status) : RenameIsYoungest (s.retired i status) := by
  have hrow : ∀ r, (s.retired i status).rename r = _ := hs
  refine ⟨fun r hr => ?producer, fun r hr => ?idle, fun r p hp hd => ?youngest⟩
  case producer =>
    rw [hrow] at hr ⊢
    split at hr
    · cases hr
    · next hkept =>
      rw [if_neg hkept]
      obtain ⟨p, hp, hrob, hbusy, hd⟩ := h.inv.rename.producer r hr
      have hne : p ≠ s.head := by
        rintro rfl
        exact hkept ⟨hd, hr, hrob⟩
      exact ⟨p, hp, hrob, by rwa [retired_entry_of_ne hne], by rwa [retired_entry_of_ne hne]⟩
  case idle =>
    rw [hrow] at hr ⊢
    split
    · rfl
    · next hkept =>
      rw [if_neg hkept] at hr
      exact h.inv.rename.idle r hr
  case youngest =>
    obtain ⟨hne, heq⟩ := entry_before (RobEntry.ne_empty_of_dest hd)
    rw [heq] at hd ⊢
    obtain ⟨hbusy, hold⟩ := h.inv.rename.youngest r p hp hd
    -- a row that names the head would make the head the youngest producer, and `p` is younger
    have hkept : ¬ (s.rename r).robIndex = some s.head := fun hrob =>
      absurd (hold s.head hrob) (Nat.not_le.mpr (h.age_lt (RobEntry.ne_empty_of_dest hd) hne))
    rw [hrow, if_neg fun ⟨_, _, hrob⟩ => hkept hrob]
    refine ⟨hbusy, fun p' hp' => ?_⟩
    rw [retired_entry_of_ne (by rintro rfl; exact hkept hp')]
    exact hold p' hp'

theorem stations : StationsMatchEntries (s.retired i status) where
  entryOf id hid hbusy := by
    obtain ⟨b, hb, hdest, hpend, hrest⟩ := h.inv.stations.entryOf id hid hbusy
    exact ⟨b, hb, hdest, by rwa [h.entry_of_pending hpend], by rwa [h.entry_of_pending hpend]⟩
  free := h.inv.stations.free
  unique := h.inv.stations.unique
  stationOf b hb hpend := by
    rw [(entry_before hpend.ne_empty).2] at hpend
    exact h.inv.stations.stationOf b hb hpend

theorem tagOlder {tag : Option Nat} {n : Nat} (ht : s.TagOlder tag n) : (s.retired i status).TagOlder tag n := by
  intro p hp
  obtain ⟨hlt, hpend, hrest⟩ := ht p hp
  rw [h.entry_of_pending hpend]
  exact ⟨hlt, hpend, hrest⟩

theorem operands : OperandsAreExclusive (s.retired i status) :=
  { h.inv.operands with
    tagJ := fun id hid hbusy => h.tagOlder (h.inv.operands.tagJ id hid hbusy)
    tagK := fun id hid hbusy => h.tagOlder (h.inv.operands.tagK id hid hbusy) }

/-- A busy station's entry is not the head. -/
theorem entry_of_station {id : StationId} {b : Nat} (hid : id ∈ s.cfg.stationOrder)
    (hbusy : (s.station id).busy = true) (hb : b ∈ (s.station id).destRob) :
    (s.retired i status).entry b = s.entry b := by
  obtain ⟨b', -, hdest, hpend, -⟩ := h.inv.stations.entryOf id hid hbusy
  obtain rfl : b' = b := by simpa [hdest] using hb
  exact h.entry_of_pending hpend

theorem values : EntryValues (s.retired i status) where
  written p hp hst := by
    rw [retired_entry] at hst ⊢
    split at hst
    · cases hst
    · next hne =>
      rw [if_neg hne]
      exact h.inv.values.written p hp hst
  unwritten id hid hbusy b hb := by
    rw [h.entry_of_station hid hbusy hb]
    exact h.inv.values.unwritten id hid hbusy b hb

theorem running {id : StationId} (hrun : s.Running id) : (s.retired i status).Running id := by
  obtain ⟨hid, hbusy, hj, hk, hst⟩ := hrun
  refine ⟨hid, hbusy, hj, hk, fun b hb => ?_⟩
  rw [h.entry_of_station hid hbusy hb]
  exact hst b hb

theorem tracked : TrackedMidCycle (s.retired i status) := by
  have htr := h.inv.tracked
  refine ⟨htr.recordsDistinct, fun f hf => ?record, htr.queueDistinct, fun b hb => ?queued,
    fun id hid hbusy b hb hst => ?executing⟩
  case record =>
    obtain ⟨hrun, hi, -⟩ := htr.record f hf
    exact ⟨h.running hrun, hi⟩
  case queued =>
    obtain ⟨hlt, hst, hstation⟩ := htr.queued b hb
    rw [h.entry_of_pending (.inr hst)]
    refine ⟨hlt, hst, fun id hid hprod => ?_⟩
    obtain ⟨hrun, hnot⟩ := hstation id hid hprod
    exact ⟨h.running hrun, hnot⟩
  case executing =>
    rw [h.entry_of_station hid hbusy hb] at hst
    exact htr.executing id hid hbusy b hb hst

/-- The stamps of the head: written in an earlier cycle, not committed. -/
theorem head_stamps :
    (∃ w, (s.stampOf i).writeResult = some w ∧ w < s.cycle) ∧ (s.stampOf i).Ordered s.cycle := by
  have hfly := h.inv.stamps.flying 0 h.flying
  rw [Nat.add_zero, ← h.index, slot_zero h.inv.shape] at hfly
  obtain ⟨-, -, hwrote, -⟩ := hfly
  have hord := h.inv.stamps.ordered i (h.lt_pc.trans_le h.inv.shape.pcRange)
  obtain ⟨w, hw⟩ := Option.isSome_iff_exists.mp (hwrote.mpr h.written)
  refine ⟨⟨w, hw, ?_⟩, hord⟩
  obtain ⟨-, -, hwritten, -⟩ := hord
  exact (hwritten w hw).1

/-- Every instruction before the head has committed in an earlier cycle. -/
theorem commit_before {n : Nat} (hn : n < i) : ∃ u, (s.stampOf n).commit = some u ∧ u < s.cycle := by
  have hlen : n < s.prog.length := (hn.trans h.lt_pc).trans_le h.inv.shape.pcRange
  obtain ⟨u, hu⟩ := Option.isSome_iff_exists.mp (h.inv.stamps.committed n hlen (h.index ▸ hn))
  obtain ⟨-, -, -, hcommitted⟩ := h.inv.stamps.ordered n hlen
  exact ⟨u, hu, (hcommitted u hu).1⟩

theorem stamps : StampsMidCycle (s.retired i status) := by
  have hfly := h.inFlight (status := status)
  have hpc := h.lt_pc
  have hidx := h.index
  have hstamp := retired_stampOf (status := status) (h.inv.shape.stampLength ▸ hpc.trans_le h.inv.shape.pcRange)
  have hst := h.inv.stamps
  refine ⟨fun n hn => ?ordered, fun n hn hge => ?unissued, fun n hn hlt => ?committed, fun j hj => ?flying,
    fun n hn m hm x hx => ?inOrder⟩
  case ordered =>
    rw [hstamp]
    split
    · obtain ⟨⟨w, hw, hlt⟩, hord⟩ := h.head_stamps
      obtain ⟨hi, he, hwr, -⟩ := hord.mono (Nat.le_succ _)
      refine ⟨hi, he, hwr, fun u hu => ?_⟩
      obtain rfl : s.cycle = u := by simpa using hu
      exact ⟨Nat.lt_succ_self _, w, hw, hlt⟩
    · exact (hst.ordered n hn).mono (Nat.le_succ _)
  case unissued =>
    have hge' : s.pc ≤ n := hge
    rw [hstamp, if_neg (by omega)]
    exact hst.unissued n hn hge
  case committed =>
    have hlt' : n < s.pc - (s.retired i status).inFlight := hlt
    rw [hstamp]
    split
    · rfl
    · exact hst.committed n hn (by omega)
  case flying =>
    have hle := inFlight_le s
    have hat : s.pc - (s.retired i status).inFlight + j = s.pc - s.inFlight + (j + 1) := by
      have := h.inv.queue.issued
      omega
    change (s.retired i status).FlightStamps ((s.retired i status).stampOf (s.pc - _ + j)) _
    rw [State.FlightStamps, hat, retired_slot, hstamp, if_neg (by omega), h.entry_of_slot (by omega)]
    exact hst.flying (j + 1) (by omega)
  case inOrder =>
    rw [hstamp] at hx ⊢
    split at hx
    · next heq =>
      obtain rfl : s.cycle = x := by simpa using hx
      rw [if_neg (by omega)]
      exact h.commit_before (heq ▸ hm)
    · next hne =>
      have hn' : n < i := Nat.lt_of_not_le fun hge => by
        simp [h.inv.midCycle.stamps.commit_eq_none h.inv.queue hn (hidx ▸ hge)] at hx
      rw [if_neg (by omega)]
      exact hst.inOrder n hn m hm x hx

theorem midCycle (hs : s.HeadUnrenamed status) : MidCycle (s.retired i status) where
  shape := h.shape
  queue := h.queue
  rename := h.rename hs
  stations := h.stations
  operands := h.operands
  values := h.values
  tracked := h.tracked
  stamps := h.stamps

end HeadRetires

theorem PipelineInvariant.store_has_no_destination (h : PipelineInvariant s) {p : Nat}
    (hk : (s.entry p).kind = some .store) : (s.entry p).destinationRegister = none := by
  obtain ⟨j, -, -, hlive⟩ := h.queue.place h.shape (p := p) (by rintro heq; simp [heq] at hk)
  exact hlive.dest_iff.mpr hk

/-- Commit takes the invariant at the start of the cycle to the one in mid-cycle. -/
theorem commit_midCycle (h : PipelineInvariant s) (hc : commit s = .next t) : MidCycle t := by
  obtain rfl | ⟨hr, i, status, regs, mem, events, hi, hs, rfl⟩ := commit_retires hc h.store_has_no_destination
  · exact h.midCycle
  · exact ((h.headRetires hr hi).midCycle hs).withArch

end Sys2Proof.Machine
end

section
/-! PROOF. What the phases that execute an instruction keep: they change neither the ROB queue nor the rename table. -/

namespace Sys2Proof.Machine

/-- `s` with other stations, ROB contents, tracker, CDB queue and stamps: what Execute-Start, Execute-Advance and
Write-Result change. -/
def State.withExecution (s : State) (rs : StationPool) (rob : List RobEntry) (fu : List FuRecord) (cdbq : List Nat)
    (stamp : List Stamps) : State :=
  { s with rs := rs, rob := rob, fu := fu, cdbq := cdbq, stamp := stamp }

/-- `e'` is the entry of the same instruction as `e`, at this or a later stage. -/
structure RobEntry.SameInstruction (e e' : RobEntry) : Prop where
  busy : e'.busy = e.busy
  index : e'.instructionIndex = e.instructionIndex
  kind : e'.kind = e.kind
  dest : e'.destinationRegister = e.destinationRegister
  occupied : e.state ≠ .empty → e'.state ≠ .empty
  blank : e = {} → e' = {}

theorem RobEntry.SameInstruction.rfl {e : RobEntry} : e.SameInstruction e :=
  ⟨.refl _, .refl _, .refl _, .refl _, id, id⟩

theorem RobEntry.SameInstruction.age {e e' : RobEntry} (h : e.SameInstruction e') : e'.age = e.age := by
  simp only [RobEntry.age, h.index]

theorem RobEntry.SameInstruction.live {e e' : RobEntry} {i : Nat} (h : e.SameInstruction e') (hl : e.Live i) :
    e'.Live i := by
  obtain ⟨hbusy, hst, hi, hk, hd⟩ := hl
  rw [RobEntry.Live, h.busy, h.index, h.kind, h.dest]
  exact ⟨hbusy, h.occupied hst, hi, hk, hd⟩

variable {s : State} {rs : StationPool} {rob : List RobEntry} {fu : List FuRecord} {cdbq : List Nat}
  {stamp : List Stamps}

theorem Shape.withExecution (h : Shape s) (hrob : rob.length = s.rob.length)
    (hrs : ∀ g, (rs.group g).length = (s.rs.group g).length) (hstamp : stamp.length = s.stamp.length) :
    Shape (s.withExecution rs rob fu cdbq stamp) :=
  { h with
    robLength := hrob.trans h.robLength
    groupLength := fun g => (hrs g).trans (h.groupLength g)
    stampLength := hstamp.trans h.stampLength }

theorem RobIsQueue.withExecution (h : RobIsQueue s)
    (hsame : ∀ p, (s.entry p).SameInstruction ((s.withExecution rs rob fu cdbq stamp).entry p)) :
    RobIsQueue (s.withExecution rs rob fu cdbq stamp) where
  issued := h.issued
  tailPlace := h.tailPlace
  live j hj := (hsame _).live (h.live j hj)
  free j hj hge := (hsame _).blank (h.free j hj hge)

theorem RenameIsYoungest.withExecution (h : RenameIsYoungest s)
    (hsame : ∀ p, (s.entry p).SameInstruction ((s.withExecution rs rob fu cdbq stamp).entry p)) :
    RenameIsYoungest (s.withExecution rs rob fu cdbq stamp) where
  producer r hr := by
    obtain ⟨p, hp, hrob, hbusy, hd⟩ := h.producer r hr
    exact ⟨p, hp, hrob, (hsame p).busy.trans hbusy, (hsame p).dest.trans hd⟩
  idle := h.idle
  youngest r p hp hd := by
    obtain ⟨hbusy, hold⟩ := h.youngest r p hp ((hsame p).dest.symm.trans hd)
    refine ⟨hbusy, fun p' hp' => ?_⟩
    rw [(hsame p).age, (hsame p').age]
    exact hold p' hp'

/-- A tag stays good as long as its producer is pending. -/
theorem State.TagOlder.withExecution {tag : Option Nat} {i : Nat} (h : s.TagOlder tag i)
    (hsame : ∀ p, (s.entry p).SameInstruction ((s.withExecution rs rob fu cdbq stamp).entry p))
    (hpend : ∀ p ∈ tag, (s.entry p).Pending → ((s.withExecution rs rob fu cdbq stamp).entry p).Pending) :
    (s.withExecution rs rob fu cdbq stamp).TagOlder tag i := by
  intro p hp
  obtain ⟨hlt, hpending, hkind, hage⟩ := h p hp
  rw [(hsame p).kind, (hsame p).age]
  exact ⟨hlt, hpend p hp hpending, hkind, hage⟩

/-- The stamps stay a record when one instruction in flight, `j` places after the head, passes a stage. -/
theorem StampsMidCycle.withExecution (h : StampsMidCycle s) (hq : RobIsQueue s) {j : Nat} (hj : j < s.inFlight)
    {x : Stamps} (hnew : (s.withExecution rs rob fu cdbq stamp).stampOf (s.pc - s.inFlight + j) = x)
    (hstamp : ∀ n ≠ s.pc - s.inFlight + j, (s.withExecution rs rob fu cdbq stamp).stampOf n = s.stampOf n)
    (hordered : x.Ordered (s.cycle + 1))
    (hflight : (s.withExecution rs rob fu cdbq stamp).FlightStamps x (s.slot j))
    (hothers : ∀ j' < s.inFlight, j' ≠ j → ∀ y, s.FlightStamps y (s.slot j') →
      (s.withExecution rs rob fu cdbq stamp).FlightStamps y (s.slot j')) :
    StampsMidCycle (s.withExecution rs rob fu cdbq stamp) := by
  have hissued := hq.issued
  refine ⟨fun n hn => ?ordered, fun n hn hge => ?unissued, fun n hn hlt => ?committed, fun j' hj' => ?flying,
    fun n hn m hm u hu => ?inOrder⟩
  case ordered =>
    by_cases heq : n = s.pc - s.inFlight + j
    · rw [heq, hnew]
      exact hordered
    · rw [hstamp n heq]
      exact h.ordered n hn
  case unissued =>
    have hge' : s.pc ≤ n := hge
    rw [hstamp n (by omega)]
    exact h.unissued n hn hge
  case committed =>
    have hlt' : n < s.pc - s.inFlight := hlt
    rw [hstamp n (by omega)]
    exact h.committed n hn hlt
  case flying =>
    change (s.withExecution rs rob fu cdbq stamp).FlightStamps
      ((s.withExecution rs rob fu cdbq stamp).stampOf (s.pc - s.inFlight + j')) (s.slot j')
    by_cases heq : j' = j
    · rw [heq, hnew]
      exact hflight
    · rw [hstamp _ (by omega)]
      exact hothers j' hj' heq _ (h.flying j' hj')
  case inOrder =>
    obtain ⟨-, -, -, hnone⟩ := hflight
    have hne : n ≠ s.pc - s.inFlight + j := by
      rintro rfl
      rw [hnew] at hu
      simp [hnone] at hu
    rw [hstamp n hne] at hu
    have hlt : n < s.pc - s.inFlight := Nat.lt_of_not_le fun hge => by simp [h.commit_eq_none hq hn hge] at hu
    rw [hstamp m (by omega)]
    exact h.inOrder n hn m hm u hu

/-! The pairing of busy stations and pending entries -/

/-- The entry of a busy station. -/
theorem StationsMatchEntries.entry_pending (h : StationsMatchEntries s) {id : StationId} {b : Nat}
    (hid : id ∈ s.cfg.stationOrder) (hbusy : (s.station id).busy = true) (hb : (s.station id).destRob = some b) :
    b < s.cfg.robSize ∧ (s.entry b).Pending ∧ (s.station id).instructionIndex = (s.entry b).instructionIndex ∧
      (s.station id).op = (s.entry b).kind ∧ (s.station id).op.map groupOf = some id.group := by
  obtain ⟨b', hlt, hdest, hrest⟩ := h.entryOf id hid hbusy
  obtain rfl : b' = b := Option.some.inj (hdest.symm.trans hb)
  exact ⟨hlt, hrest⟩

theorem StationsMatchEntries.dest_pending (h : StationsMatchEntries s) {id : StationId} {b : Nat}
    (hid : id ∈ s.cfg.stationOrder) (hbusy : (s.station id).busy = true) (hb : (s.station id).destRob = some b) :
    (s.entry b).Pending := by
  obtain ⟨-, hpend, -⟩ := h.entry_pending hid hbusy hb
  exact hpend

/-- Two busy stations write into two entries. -/
theorem StationsMatchEntries.dest_ne (h : StationsMatchEntries s) {id id' : StationId} {b b' : Nat}
    (hid : id ∈ s.cfg.stationOrder) (hid' : id' ∈ s.cfg.stationOrder) (hbusy : (s.station id).busy = true)
    (hbusy' : (s.station id').busy = true) (hb : (s.station id).destRob = some b)
    (hb' : (s.station id').destRob = some b') (hne : id' ≠ id) : b' ≠ b := by
  rintro rfl
  exact hne (h.unique id' hid' id hid hbusy' hbusy (hb'.trans hb.symm))

/-- Where the instruction of a busy station stands in the ROB queue. -/
theorem MidCycle.station_place (h : MidCycle s) {id : StationId} {b i : Nat} (hid : id ∈ s.cfg.stationOrder)
    (hbusy : (s.station id).busy = true) (hb : (s.station id).destRob = some b)
    (hi : (s.station id).instructionIndex = some i) :
    ∃ j < s.inFlight, b = s.slot j ∧ i = s.pc - s.inFlight + j ∧ (s.entry b).Live i := by
  obtain ⟨-, hpend, hidx, -⟩ := h.stations.entry_pending hid hbusy hb
  obtain ⟨j, hj, rfl, hlive⟩ := h.queue.place h.shape hpend.ne_empty
  obtain rfl : i = s.pc - s.inFlight + j := Option.some.inj (hi.symm.trans (hidx.trans hlive.index))
  exact ⟨j, hj, rfl, rfl, hlive⟩

theorem producesInto_iff {q : Station} {b : Nat} :
    q.producesInto b = true ↔ q.busy = true ∧ q.destRob = some b := by
  simp [Station.producesInto]

end Sys2Proof.Machine
end

section
/-! PROOF. Execute-Start keeps the pipeline invariant and leaves every undispatched station waiting (R140 to R146). -/

namespace Sys2Proof.Machine

/-- `s` after the dispatch of instruction `i` at station `id`, which writes into entry `b` (R141, R142). -/
def State.dispatchedTo (s : State) (id : StationId) (b i : Nat) (lat : Int) : State :=
  s.withExecution s.rs (s.rob.set b { s.entry b with state := .executing })
    (s.fu ++ [{ rs := id, instructionIndex := i, remaining := lat }]) s.cdbq s.stamp

/-- A station that meets R140 in mid-cycle. -/
structure Dispatches (s : State) (id : StationId) (b i : Nat) : Prop where
  inv : MidCycle s
  mem : id ∈ s.cfg.stationOrder
  busy : (s.station id).busy = true
  readyJ : (s.station id).qj = none
  readyK : (s.station id).qk = none
  dest : (s.station id).destRob = some b
  index : (s.station id).instructionIndex = some i
  issued : (s.entry b).state = .issued

variable {s t : State} {id : StationId} {b i : Nat} {lat : Int}

/-- A STORE with both operands has its data in the ROB already, so R144 has nothing to copy. -/
theorem Dispatches.entry_dispatched (h : Dispatches s id b i) {k : Kind} (hk : (s.station id).op = some k) :
    (s.entry b).dispatched k (s.station id) = { s.entry b with state := .executing } := by
  obtain ⟨-, hval⟩ := h.inv.values.unwritten id h.mem h.busy b h.dest
  refine if_neg ?_
  rintro ⟨rfl, hnot⟩
  rw [if_pos hk] at hval
  simp [hval.2.mpr h.readyJ] at hnot

/-- Execute-Start leaves a station alone or dispatches it. -/
theorem dispatchStation_dispatches (h : MidCycle s) (hid : id ∈ s.cfg.stationOrder)
    (hd : dispatchStation s id = .next t) :
    (s.dispatchable (s.station id) = false ∧ t = s) ∨
      ∃ b i lat, Dispatches s id b i ∧ t = s.dispatchedTo id b i lat := by
  obtain ⟨hnot, rfl⟩ | ⟨hr, b, k, i, hb, hk, hi, rfl⟩ := dispatchStation_cases hd
  · exact .inl ⟨hnot, rfl⟩
  · obtain ⟨hbusy, hj, hq, b', hb', hst⟩ := (dispatchable_iff s _).mp hr
    obtain rfl : b' = b := Option.some.inj (hb'.symm.trans hb)
    have hdisp : Dispatches s id b' i := ⟨h, hid, hbusy, hj, hq, hb, hi, hst⟩
    refine .inr ⟨b', i, latency s.cfg k, hdisp, ?_⟩
    rw [hdisp.entry_dispatched hk]
    rfl

namespace Dispatches

variable (h : Dispatches s id b i)
include h

theorem b_lt : b < s.cfg.robSize := (h.inv.stations.entry_pending h.mem h.busy h.dest).1

theorem entry (p : Nat) : (s.dispatchedTo id b i lat).entry p =
    if p = b then { s.entry b with state := .executing } else s.entry p :=
  entry_setEntry _ (h.inv.shape.robLength ▸ h.b_lt) p

theorem entry_of_ne {p : Nat} (hp : p ≠ b) : (s.dispatchedTo id b i lat).entry p = s.entry p := by
  rw [h.entry, if_neg hp]

theorem sameInstruction (p : Nat) : (s.entry p).SameInstruction ((s.dispatchedTo id b i lat).entry p) := by
  rw [h.entry]
  split
  · next heq =>
    subst heq
    refine ⟨rfl, rfl, rfl, rfl, fun _ => by simp, fun hblank => ?_⟩
    have := h.issued
    simp [hblank] at this
  · exact .rfl

theorem pending_iff (p : Nat) : ((s.dispatchedTo id b i lat).entry p).Pending ↔ (s.entry p).Pending := by
  rw [h.entry]
  split
  · next heq => simp [RobEntry.Pending, heq, h.issued]
  · rfl

/-- A station with an executing entry is not `id`, and no other station writes into `b`. -/
theorem entry_of_executing {p : Nat} (hp : (s.entry p).state = .executing) :
    (s.dispatchedTo id b i lat).entry p = s.entry p := by
  refine h.entry_of_ne ?_
  rintro rfl
  simp [h.issued] at hp

theorem running {id' : StationId} (hrun : s.Running id') : (s.dispatchedTo id b i lat).Running id' := by
  obtain ⟨hid', hbusy', hj, hk, hst⟩ := hrun
  refine ⟨hid', hbusy', hj, hk, fun b' hb' => ?_⟩
  rw [h.entry_of_executing (hst b' hb')]
  exact hst b' hb'

theorem running_self : (s.dispatchedTo id b i lat).Running id := by
  refine ⟨h.mem, h.busy, h.readyJ, h.readyK, fun b' hb' => ?_⟩
  obtain rfl : b' = b := Option.some.inj (hb'.symm.trans h.dest)
  rw [h.entry, if_pos rfl]

theorem not_running : ¬ s.Running id := by
  rintro ⟨-, -, -, -, hst⟩
  simpa [h.issued] using hst b h.dest

theorem not_tracked : id ∉ s.fu.map FuRecord.rs := by
  intro hmem
  obtain ⟨f, hf, heq⟩ := List.mem_map.mp hmem
  exact h.not_running (heq ▸ (h.inv.tracked.record f hf).1)

theorem shape : Shape (s.dispatchedTo id b i lat) :=
  h.inv.shape.withExecution List.length_set (fun _ => rfl) rfl

theorem stations : StationsMatchEntries (s.dispatchedTo id b i lat) :=
  { h.inv.stations with
    entryOf := fun id' hid' hbusy' => by
      obtain ⟨b', hlt, hdest, hpend, hidx, hop, hgroup⟩ := h.inv.stations.entryOf id' hid' hbusy'
      refine ⟨b', hlt, hdest, (h.pending_iff b').mpr hpend, ?_, ?_, hgroup⟩
      · exact hidx.trans (h.sameInstruction b').index.symm
      · exact hop.trans (h.sameInstruction b').kind.symm
    stationOf := fun b' hb' hpend => h.inv.stations.stationOf b' hb' ((h.pending_iff b').mp hpend) }

theorem tagOlder {tag : Option Nat} {n : Nat} (ht : s.TagOlder tag n) : (s.dispatchedTo id b i lat).TagOlder tag n :=
  ht.withExecution h.sameInstruction fun p _ => (h.pending_iff p).mpr

theorem operands : OperandsAreExclusive (s.dispatchedTo id b i lat) :=
  { h.inv.operands with
    tagJ := fun id' hid' hbusy' => h.tagOlder (h.inv.operands.tagJ id' hid' hbusy')
    tagK := fun id' hid' hbusy' => h.tagOlder (h.inv.operands.tagK id' hid' hbusy') }

theorem values : EntryValues (s.dispatchedTo id b i lat) where
  written p hp hst := by
    rw [h.entry] at hst ⊢
    split at hst
    · cases hst
    · next hne =>
      rw [if_neg hne]
      exact h.inv.values.written p hp hst
  unwritten id' hid' hbusy' b' hb' := by
    have hval := h.inv.values.unwritten id' hid' hbusy' b' hb'
    rw [h.entry]
    split
    · next heq => exact heq ▸ hval
    · exact hval

theorem tracked : TrackedMidCycle (s.dispatchedTo id b i lat) := by
  have htr := h.inv.tracked
  have hrecords : (s.dispatchedTo id b i lat).fu.map FuRecord.rs = s.fu.map FuRecord.rs ++ [id] := List.map_append
  refine ⟨?distinct, fun f hf => ?record, htr.queueDistinct, fun p hp => ?queued,
    fun id' hid' hbusy' b' hb' hst => ?executing⟩
  case distinct =>
    rw [hrecords]
    exact htr.recordsDistinct.append (List.nodup_singleton id) (List.disjoint_singleton.mpr h.not_tracked)
  case record =>
    obtain hold | hnew := List.mem_append.mp hf
    · exact (htr.record f hold).imp_left h.running
    · obtain rfl := List.mem_singleton.mp hnew
      exact ⟨h.running_self, h.index⟩
  case queued =>
    obtain ⟨hlt, hst, hstation⟩ := htr.queued p hp
    rw [h.entry_of_executing hst]
    refine ⟨hlt, hst, fun id' hid' hprod => ?_⟩
    obtain ⟨hrun, hnot⟩ := hstation id' hid' hprod
    rw [hrecords, List.mem_append, List.mem_singleton]
    refine ⟨h.running hrun, not_or.mpr ⟨hnot, ?_⟩⟩
    rintro rfl
    exact h.not_running hrun
  case executing =>
    rw [hrecords, List.mem_append, List.mem_singleton]
    by_cases heq : id' = id
    · exact .inl (.inr heq)
    · rw [h.entry_of_ne (h.inv.stations.dest_ne h.mem hid' h.busy hbusy' h.dest hb' heq)] at hst
      exact (htr.executing id' hid' hbusy' b' hb' hst).imp_left .inl

theorem stamps : StampsMidCycle (s.dispatchedTo id b i lat) := by
  obtain ⟨j, hj, hb, -, -⟩ := h.inv.station_place h.mem h.busy h.dest h.index
  have hwrote (p : Nat) :
      ((s.dispatchedTo id b i lat).entry p).state = .wroteResult ↔ (s.entry p).state = .wroteResult := by
    rw [h.entry]
    split
    · next heq => simp [heq, h.issued]
    · rfl
  have hflight (p : Nat) (x : Stamps) : s.FlightStamps x p → (s.dispatchedTo id b i lat).FlightStamps x p := by
    rw [State.FlightStamps, State.FlightStamps, hwrote]
    exact fun hx => hx
  have hlen : s.pc - s.inFlight + j < s.prog.length := (h.inv.queue.index_lt_pc hj).trans_le h.inv.shape.pcRange
  exact h.inv.stamps.withExecution h.inv.queue hj rfl (fun _ _ => rfl) (h.inv.stamps.ordered _ hlen)
    (hflight _ _ (h.inv.stamps.flying j hj)) fun j' _ _ x => hflight _ x

theorem midCycle : MidCycle (s.dispatchedTo id b i lat) where
  shape := h.shape
  queue := h.inv.queue.withExecution h.sameInstruction
  rename := h.inv.rename.withExecution h.sameInstruction
  stations := h.stations
  operands := h.operands
  values := h.values
  tracked := h.tracked
  stamps := h.stamps

/-- A dispatch moves no entry back to Issued. -/
theorem waits {id' : StationId} (hw : s.Waits id') : (s.dispatchedTo id b i lat).Waits id' := by
  intro hbusy' b' hb' hst
  rw [h.entry] at hst
  split at hst
  · cases hst
  · exact hw hbusy' b' hb' hst

end Dispatches

/-- A visited station is dispatched or waits. -/
theorem waits_of_not_dispatchable (h : s.dispatchable (s.station id) = false) : s.Waits id := by
  intro hbusy b hb hst
  by_contra hready
  obtain ⟨hj, hk⟩ := not_or.mp hready
  rw [ne_eq, not_not] at hj hk
  exact absurd ((dispatchable_iff s _).mpr ⟨hbusy, hj, hk, b, hb, hst⟩) (by simp [h])

/-- The state within the loop of Execute-Start: `cfg` is the configuration, and the stations in `visited` wait. -/
structure Dispatching (c : Config) (visited : List StationId) (s : State) : Prop where
  inv : MidCycle s
  cfg : s.cfg = c
  waits : ∀ id ∈ visited, s.Waits id

theorem dispatchStation_dispatching {c : Config} {visited : List StationId} (h : Dispatching c visited s)
    (hid : id ∈ c.stationOrder) (hd : dispatchStation s id = .next t) : Dispatching c (id :: visited) t := by
  obtain ⟨hmid, rfl, hwaits⟩ := h
  obtain ⟨hnot, rfl⟩ | ⟨b, i, lat, hdisp, rfl⟩ := dispatchStation_dispatches hmid hid hd
  · exact ⟨hmid, rfl, List.forall_mem_cons.mpr ⟨waits_of_not_dispatchable hnot, hwaits⟩⟩
  · refine ⟨hdisp.midCycle, rfl, List.forall_mem_cons.mpr ⟨fun _ b' hb' hst => ?_, fun id' hid' => ?_⟩⟩
    · simp [hdisp.running_self.executing hb'] at hst
    · exact hdisp.waits (hwaits id' hid')

theorem forEach_dispatching {c : Config} {visited l : List StationId} (h : Dispatching c visited s)
    (hl : ∀ id ∈ l, id ∈ c.stationOrder) (hd : forEach dispatchStation l s = .next t) :
    Dispatching c (l.reverse ++ visited) t := by
  induction l generalizing s visited with
  | nil =>
    cases hd
    exact h
  | cons id l ih =>
    obtain ⟨u, hu, hrest⟩ := andThen_next hd
    rw [List.reverse_cons, List.append_assoc]
    obtain ⟨hid, hl⟩ := List.forall_mem_cons.mp hl
    exact ih (dispatchStation_dispatching h hid hu) hl hrest

/-- Execute-Start keeps the invariant, and afterwards every station that is not dispatched waits for an operand. -/
theorem executeStart_midCycle (h : MidCycle s) (he : executeStart s = .next t) :
    MidCycle t ∧ ∀ id ∈ t.cfg.stationOrder, t.Waits id := by
  have hscan := legal_scanOrder_perm h.shape.legal
  have hstart : Dispatching s.cfg [] s := ⟨h, rfl, by simp⟩
  obtain ⟨hmid, hcfg, hwaits⟩ := forEach_dispatching hstart (fun id => hscan.mem_iff.mp) he
  refine ⟨hmid, fun id hid => hwaits id ?_⟩
  rw [hcfg] at hid
  simpa using hscan.mem_iff.mpr hid

end Sys2Proof.Machine
end

section
/-! PROOF. Execute-Advance keeps the pipeline invariant (R147 to R151): a finished record becomes a CDB queue
element. -/

namespace Sys2Proof.Machine

/-- `s` after its record `f`, whose station writes into entry `b`, has left the tracker for the CDB queue (R148). -/
def State.completed (s : State) (f : FuRecord) (b : Nat) (rest : List FuRecord) : State :=
  s.withExecution s.rs s.rob rest (s.cdbq ++ [b])
    (s.stamp.set f.instructionIndex { s.stampOf f.instructionIndex with executionComplete := some s.cycle })

variable {s t : State} {f : FuRecord} {b : Nat} {rest : List FuRecord}

/-- A record at the front of the tracker, in mid-cycle. -/
structure Completes (s : State) (f : FuRecord) (b : Nat) (rest : List FuRecord) : Prop where
  inv : MidCycle s
  front : s.fu = f :: rest
  dest : (s.station f.rs).destRob = some b

namespace Completes

variable (h : Completes s f b rest)
include h

theorem running : s.Running f.rs := (h.inv.tracked.record f (h.front ▸ List.mem_cons_self)).1

theorem index : (s.station f.rs).instructionIndex = some f.instructionIndex :=
  (h.inv.tracked.record f (h.front ▸ List.mem_cons_self)).2

theorem records : s.fu.map FuRecord.rs = f.rs :: rest.map FuRecord.rs := by rw [h.front, List.map_cons]

theorem executing : (s.entry b).state = .executing := h.running.executing h.dest

/-- The queue elements have stations of their own, which are in no record. -/
theorem not_queued : b ∉ s.cdbq := by
  intro hb
  obtain ⟨hid, hbusy, -⟩ := h.running
  obtain ⟨-, hnot⟩ := h.inv.tracked.queued_station hb hid (producesInto_iff.mpr ⟨hbusy, h.dest⟩)
  rw [h.records] at hnot
  exact hnot List.mem_cons_self

theorem tracked : TrackedMidCycle (s.completed f b rest) := by
  have htr := h.inv.tracked
  obtain ⟨hid, hbusy, -⟩ := h.running
  obtain ⟨hfront, hrest⟩ := List.nodup_cons.mp (h.records ▸ htr.recordsDistinct)
  refine ⟨hrest, fun g hg => ?record, ?distinct, fun p hp => ?queued, fun id hid' hbusy' p hp hst => ?executing⟩
  case record => exact htr.record g (h.front ▸ List.mem_cons_of_mem f hg)
  case distinct =>
    exact htr.queueDistinct.append (List.nodup_singleton b) (List.disjoint_singleton.mpr h.not_queued)
  case queued =>
    obtain hold | hnew := List.mem_append.mp hp
    · obtain ⟨hlt, hst, hstation⟩ := htr.queued p hold
      refine ⟨hlt, hst, fun id hid' hprod => ?_⟩
      obtain ⟨hrun, hnot⟩ := hstation id hid' hprod
      rw [h.records] at hnot
      exact ⟨hrun, fun hmem => hnot (List.mem_cons_of_mem _ hmem)⟩
    · obtain rfl := List.mem_singleton.mp hnew
      refine ⟨(h.inv.stations.entry_pending hid hbusy h.dest).1, h.executing, fun id hid' hprod => ?_⟩
      obtain ⟨hbusy', hdest'⟩ := producesInto_iff.mp hprod
      obtain rfl := h.inv.stations.unique id hid' f.rs hid hbusy' hbusy (hdest'.trans h.dest.symm)
      exact ⟨h.running, hfront⟩
  case executing =>
    rw [show (s.completed f b rest).cdbq = s.cdbq ++ [b] from rfl, List.mem_append, List.mem_singleton]
    obtain hmem | hqueued := htr.executing id hid' hbusy' p hp hst
    · rw [h.records] at hmem
      obtain rfl | hmem := List.mem_cons.mp hmem
      · exact .inr (.inr (Option.some.inj (hp.symm.trans h.dest)))
      · exact .inl hmem
    · exact .inr (.inl hqueued)

theorem stamps : StampsMidCycle (s.completed f b rest) := by
  obtain ⟨hid, hbusy, -⟩ := h.running
  obtain ⟨j, hj, hb, hi, -⟩ := h.inv.station_place hid hbusy h.dest h.index
  have hlen : f.instructionIndex < s.prog.length := by
    rw [hi]
    exact (h.inv.queue.index_lt_pc hj).trans_le h.inv.shape.pcRange
  have hstamp := stampOf_setStamp (fun x => { x with executionComplete := some s.cycle })
    (h.inv.shape.stampLength ▸ hlen)
  have hnew : (s.completed f b rest).stampOf (s.pc - s.inFlight + j) =
      { s.stampOf f.instructionIndex with executionComplete := some s.cycle } := by
    rw [← hi]
    exact (hstamp _).trans (if_pos rfl)
  have hfly := h.inv.stamps.flying j hj
  rw [← hi, ← hb] at hfly
  obtain ⟨hissue, -, hwr, hcommit⟩ := hfly
  have hunwritten : (s.stampOf f.instructionIndex).writeResult = none := by
    simpa [h.executing] using hwr
  obtain ⟨hibound, -⟩ := h.inv.stamps.ordered _ hlen
  refine h.inv.stamps.withExecution h.inv.queue hj hnew (fun n hn => ?others) ?ordered ?flight
    fun j' hj' hne x hx => ?rest
  case others => exact (hstamp n).trans (if_neg (hi ▸ hn))
  case ordered =>
    obtain ⟨x, hx⟩ := Option.isSome_iff_exists.mp hissue
    refine ⟨hibound, fun y hy => ?_, by simp [hunwritten], by simp [hcommit]⟩
    obtain rfl : s.cycle = y := by simpa using hy
    exact ⟨Nat.lt_succ_self _, x, hx, Nat.le_of_lt_succ (hibound x hx)⟩
  case flight =>
    refine ⟨hissue, ?_, hwr.trans (by rw [hb]; rfl), hcommit⟩
    simp [State.withExecution, hb]
  case rest =>
    have hslot : s.slot j' ≠ b := fun heq =>
      hne (slot_inj (hj'.trans_le (inFlight_le s)) (hj.trans_le (inFlight_le s)) (heq.trans hb))
    obtain ⟨hx1, hx2, hx3⟩ := hx
    refine ⟨hx1, hx2.trans (or_congr Iff.rfl ?_), hx3⟩
    simp [State.withExecution, hslot]

theorem midCycle : MidCycle (s.completed f b rest) where
  shape := h.inv.shape.withExecution rfl (fun _ => rfl) List.length_set
  queue := { h.inv.queue with }
  rename := { h.inv.rename with }
  stations := { h.inv.stations with }
  operands := { h.inv.operands with }
  values := { h.inv.values with }
  tracked := h.tracked
  stamps := h.stamps

end Completes

/-- Counting down and reordering the records changes nothing that the mid-cycle invariant reads. -/
theorem MidCycle.countDown (h : MidCycle s) {l : List FuRecord} (hl : l.Perm (s.fu.map FuRecord.decrement)) :
    MidCycle (s.setFu l) := by
  have hrs : (l.map FuRecord.rs).Perm (s.fu.map FuRecord.rs) := by
    have := hl.map FuRecord.rs
    rwa [List.map_map] at this
  exact
    { shape := { h.shape with }
      queue := { h.queue with }
      rename := { h.rename with }
      stations := { h.stations with }
      operands := { h.operands with }
      values := { h.values with }
      stamps := { h.stamps with }
      tracked := { h.tracked with
        recordsDistinct := hrs.nodup_iff.mpr h.tracked.recordsDistinct
        record := fun f hf => by
          obtain ⟨g, hg, rfl⟩ := List.mem_map.mp (hl.mem_iff.mp hf)
          exact h.tracked.record g hg
        queued := fun b hb => by
          obtain ⟨hlt, hst, hstation⟩ := h.tracked.queued b hb
          exact ⟨hlt, hst, fun id hid hprod => (hstation id hid hprod).imp_right (mt hrs.mem_iff.mp)⟩
        executing := fun id hid hbusy b hb hst =>
          (h.tracked.executing id hid hbusy b hb hst).imp_left hrs.mem_iff.mpr } }

/-- The loop of Execute-Advance, read with the records it still has to visit at the front of the tracker. -/
theorem forEach_complete_midCycle {l : List FuRecord} (h : MidCycle (s.setFu (l ++ s.fu)))
    (hd : forEach completeRecord l s = .next t) : MidCycle t := by
  induction l generalizing s with
  | nil =>
    cases hd
    exact h
  | cons f l ih =>
    obtain ⟨u, hu, hrest⟩ := andThen_next hd
    obtain ⟨b, hb, rfl⟩ := completeRecord_cases hu
    have hfront : Completes (s.setFu (f :: l ++ s.fu)) f b (l ++ s.fu) := ⟨h, rfl, hb⟩
    refine ih ?_ hrest
    exact hfront.midCycle

/-- What a completion can change: the CDB queue and the stamps. -/
def State.QueuedSince (s t : State) : Prop := ∃ cdbq stamp, t = s.withExecution s.rs s.rob s.fu cdbq stamp

theorem forEach_complete_frame {l : List FuRecord} (hd : forEach completeRecord l s = .next t) : s.QueuedSince t := by
  refine forEach_keeps (P := s.QueuedSince) (fun f _ u v hu hv => ?_) ⟨s.cdbq, s.stamp, rfl⟩ hd
  obtain ⟨cdbq, stamp, rfl⟩ := hu
  obtain ⟨b, -, rfl⟩ := completeRecord_cases hv
  exact ⟨_, _, rfl⟩

theorem FuRecord.not_finished_iff (f : FuRecord) : (!f.finished) = true ↔ 1 ≤ f.remaining := by
  simp [FuRecord.finished]
  omega

/-- Execute-Advance keeps the invariant, the waiting stations, and only records that still count (R148). -/
theorem executeAdvance_midCycle (h : MidCycle s) (he : executeAdvance s = .next t)
    (hwait : ∀ id ∈ s.cfg.stationOrder, s.Waits id) :
    MidCycle t ∧ (∀ f ∈ t.fu, 1 ≤ f.remaining) ∧ ∀ id ∈ t.cfg.stationOrder, t.Waits id := by
  have he : forEach completeRecord _ (s.setFu _) = .next t := he
  refine ⟨forEach_complete_midCycle ?_ he, ?_⟩
  · refine h.countDown ?_
    exact ((visitOrder_perm _ _).append_right _).trans (List.filter_append_perm _ _)
  · obtain ⟨cdbq, stamp, rfl⟩ := forEach_complete_frame he
    refine ⟨fun f hf => ?_, hwait⟩
    exact (FuRecord.not_finished_iff f).mp (List.mem_filter.mp hf).2

end Sys2Proof.Machine
end

section
/-! PROOF. Write-Result keeps the pipeline invariant (R155 to R167): what a waiting station and the ROB receive. -/

namespace Sys2Proof.Machine

/-! A waiting station -/

section receive

variable (b : Nat) (result : Int) (q : Station)

@[simp] theorem receive_busy : (q.receive b result).busy = q.busy := by unfold Station.receive; grind
@[simp] theorem receive_op : (q.receive b result).op = q.op := by unfold Station.receive; grind
@[simp] theorem receive_destRob : (q.receive b result).destRob = q.destRob := by unfold Station.receive; grind
@[simp] theorem receive_a : (q.receive b result).a = q.a := by unfold Station.receive; grind
@[simp] theorem receive_instructionIndex : (q.receive b result).instructionIndex = q.instructionIndex := by
  unfold Station.receive; grind

variable {b q}

theorem receive_of_free (h : q.busy = false) : q.receive b result = q := by
  simp [Station.receive, h]

/-- A station that does not wait for `b` is left alone. -/
theorem receive_of_not_waiting (hj : q.qj ≠ some b) (hk : q.qk ≠ some b) : q.receive b result = q := by
  simp [Station.receive, hj, hk]

theorem receive_qj (h : q.busy = true) : (q.receive b result).qj = if q.qj = some b then none else q.qj := by
  unfold Station.receive; grind

theorem receive_qk (h : q.busy = true) : (q.receive b result).qk = if q.qk = some b then none else q.qk := by
  unfold Station.receive; grind

theorem receive_vj (h : q.busy = true) : (q.receive b result).vj = if q.qj = some b then result else q.vj := by
  unfold Station.receive; grind

theorem receive_vk (h : q.busy = true) : (q.receive b result).vk = if q.qk = some b then result else q.vk := by
  unfold Station.receive; grind

end receive

/-! The mirror of a STORE's data (R161) -/

/-- Some station of the list is a STORE that waits for `b` and writes into entry `p`. -/
def mirrorsInto (b : Nat) (l : List Station) (p : Nat) : Bool :=
  l.any fun q => q.awaitsStoreData b && q.destRob == some p

/-- The entries after the mirror into the ROB: the data is in the entry of every waiting STORE. -/
theorem getD_foldl_mirrorInto (b : Nat) (result : Int) (l : List Station) (rob : List RobEntry) (p : Nat) :
    (l.foldl (mirrorInto b result) rob).getD p {} =
      if p < rob.length ∧ mirrorsInto b l p = true then { rob.getD p {} with value := result, valueReady := true }
      else rob.getD p {} := by
  induction l generalizing rob with
  | nil => simp [mirrorsInto]
  | cons q l ih =>
    have hlen : (mirrorInto b result rob q).length = rob.length := by
      unfold mirrorInto
      grind [List.length_modify]
    have hhead : (mirrorInto b result rob q).getD p {} =
        if p < rob.length ∧ q.awaitsStoreData b = true ∧ q.destRob = some p then
          { rob.getD p {} with value := result, valueReady := true } else rob.getD p {} := by
      unfold mirrorInto
      grind
    have hcons : mirrorsInto b (q :: l) p = (q.awaitsStoreData b && q.destRob == some p || mirrorsInto b l p) :=
      List.any_cons
    rw [List.foldl_cons, ih, hlen, hhead, hcons]
    grind

theorem length_foldl_mirrorInto (b : Nat) (result : Int) (l : List Station) (rob : List RobEntry) :
    (l.foldl (mirrorInto b result) rob).length = rob.length := by
  induction l generalizing rob with
  | nil => rfl
  | cons q l ih =>
    rw [List.foldl_cons, ih]
    unfold mirrorInto
    grind [List.length_modify]

/-! The effect of the phase -/

/-- The tables of `s` after Write-Result of entry `b` with result `c`, by station `id` of instruction `i`; `rest` stays
in the CDB queue (R157 to R164). -/
def State.wroteBack (s : State) (b : Nat) (id : StationId) (i : Nat) (rest : List Nat) (c : Computed) : State :=
  s.withExecution ((s.rs.map (Station.receive b c.result)).set id {})
    (s.rs.toList.foldl (mirrorInto b c.result) (s.rob.set b ((s.entry b).wrote c))) s.fu rest
    (s.stamp.set i { s.stampOf i with writeResult := some s.cycle })

/-- A queue element at the front, in mid-cycle, with its station. -/
structure Writes (s : State) (b : Nat) (id : StationId) (i : Nat) (rest : List Nat) : Prop where
  inv : MidCycle s
  front : s.cdbq = b :: rest
  mem : id ∈ s.cfg.stationOrder
  busy : (s.station id).busy = true
  dest : (s.station id).destRob = some b
  index : (s.station id).instructionIndex = some i

variable {s t : State} {b i : Nat} {id : StationId} {rest : List Nat} {c : Computed}

namespace Writes

variable (h : Writes s b id i rest)
include h

theorem executing : (s.entry b).state = .executing :=
  h.inv.tracked.queued_executing (h.front ▸ List.mem_cons_self)

theorem running_and_not_tracked : s.Running id ∧ id ∉ s.fu.map FuRecord.rs :=
  h.inv.tracked.queued_station (h.front ▸ List.mem_cons_self) h.mem (producesInto_iff.mpr ⟨h.busy, h.dest⟩)

theorem running : s.Running id := h.running_and_not_tracked.1

theorem not_tracked : id ∉ s.fu.map FuRecord.rs := h.running_and_not_tracked.2

theorem b_lt : b < s.cfg.robSize := (h.inv.stations.entry_pending h.mem h.busy h.dest).1

theorem entry_busy : (s.entry b).busy = true := by
  obtain ⟨j, -, -, -, hlive⟩ := h.inv.station_place h.mem h.busy h.dest h.index
  exact hlive.entryBusy

end Writes

/-- Write-Result waits for an empty queue, or takes its front (R155 to R167). -/
theorem writeResult_writes (h : MidCycle s) (hw : writeResult s = .next t) :
    t = s ∨ ∃ b id i rest c events, Writes s b id i rest ∧
      t = (s.wroteBack b id i rest c).withArch s.regs s.mem events := by
  obtain ⟨-, rfl⟩ | ⟨b, rest, id, k, i, hq, hloc, -, hi, rfl⟩ := writeResult_cases hw
  · exact .inl rfl
  · obtain ⟨hid, hbusy, hdest⟩ := locateStation_spec hloc
    have hwrites : Writes s b id i rest := ⟨h, hq, hid, hbusy, hdest, hi⟩
    refine .inr ⟨b, id, i, rest, compute s.cfg s.mem k (s.station id) i,
      s.diagOut ++ (compute s.cfg s.mem k (s.station id) i).events, hwrites, ?_⟩
    have hguard :
        ((s.setEntry b ((s.entry b).wrote (compute s.cfg s.mem k (s.station id) i))).entry b).busy = true := by
      rw [entry_setEntry_same s _ (h.shape.robLength ▸ hwrites.b_lt)]
      exact hwrites.entry_busy
    unfold State.writeBack State.broadcast
    exact congrArg (State.releaseStation · id) (if_pos hguard)

namespace Writes

variable (h : Writes s b id i rest)
include h

omit h in
/-- A free station receives nothing, so the map reads station by station, in the table or not. -/
theorem station_map (id' : StationId) :
    ({ s with rs := s.rs.map (Station.receive b c.result) } : State).station id' =
      (s.station id').receive b c.result := by
  have hfree : ({} : Station).receive b c.result = {} := receive_of_free _ rfl
  simp only [State.station, group_map, List.getD_eq_getElem?_getD, List.getElem?_map]
  cases (s.rs.group id'.group)[id'.index]? <;> simp [hfree]

theorem station (id' : StationId) : (s.wroteBack b id i rest c).station id' =
    if id' = id then {} else (s.station id').receive b c.result := by
  have hexists := stationExists_of_mem h.inv.shape h.mem
  refine (station_setStation (s := { s with rs := s.rs.map (Station.receive b c.result) }) {} ?_ id').trans ?_
  · simpa [State.stationExists] using hexists
  · rw [station_map]

theorem station_of_ne {id' : StationId} (hne : id' ≠ id) :
    (s.wroteBack b id i rest c).station id' = (s.station id').receive b c.result := by
  rw [h.station, if_neg hne]

/-- A busy station afterwards was busy before and is not `id`. -/
theorem station_before {id' : StationId} (hbusy : ((s.wroteBack b id i rest c).station id').busy = true) :
    id' ≠ id ∧ (s.station id').busy = true := by
  rw [h.station] at hbusy
  split at hbusy
  · cases hbusy
  · next hne => exact ⟨hne, by simpa using hbusy⟩

/-- A running station receives nothing. -/
theorem station_of_running {id' : StationId} (hne : id' ≠ id) (hrun : s.Running id') :
    (s.wroteBack b id i rest c).station id' = s.station id' := by
  obtain ⟨-, -, hj, hk, -⟩ := hrun
  rw [h.station_of_ne hne]
  exact receive_of_not_waiting _ (by simp [hj]) (by simp [hk])

/-- Entry `p` is that of a STORE whose data is the result. -/
theorem mirrors_iff (p : Nat) : mirrorsInto b s.rs.toList p = true ↔ ∃ id' ∈ s.cfg.stationOrder,
    (s.station id').busy = true ∧ (s.station id').qj = some b ∧ (s.station id').op = some .store ∧
    (s.station id').destRob = some p := by
  simp only [mirrorsInto, List.any_eq_true, Bool.and_eq_true, Station.awaitsStoreData, beq_iff_eq]
  constructor
  · rintro ⟨q, hq, ⟨⟨hbusy, hj⟩, hop⟩, hd⟩
    obtain ⟨id', hid', rfl⟩ := (mem_toList_iff h.inv.shape).mp hq
    exact ⟨id', hid', hbusy, hj, hop, hd⟩
  · rintro ⟨id', hid', hbusy, hj, hop, hd⟩
    exact ⟨_, (mem_toList_iff h.inv.shape).mpr ⟨id', hid', rfl⟩, ⟨⟨hbusy, hj⟩, hop⟩, hd⟩

/-- The entry of a busy station mirrors the result exactly if the station is a STORE that waits for it. -/
theorem mirrors_iff_of_station {id' : StationId} {p : Nat} (hid' : id' ∈ s.cfg.stationOrder)
    (hbusy' : (s.station id').busy = true) (hp : (s.station id').destRob = some p) :
    mirrorsInto b s.rs.toList p = true ↔ (s.station id').qj = some b ∧ (s.station id').op = some .store := by
  rw [h.mirrors_iff]
  constructor
  · rintro ⟨id'', hid'', hbusy'', hj, hop, hd⟩
    obtain rfl := h.inv.stations.unique id'' hid'' id' hid' hbusy'' hbusy' (hd.trans hp.symm)
    exact ⟨hj, hop⟩
  · rintro ⟨hj, hop⟩
    exact ⟨id', hid', hbusy', hj, hop, hp⟩

/-- A mirrored entry is pending. -/
theorem pending_of_mirrors {p : Nat} (hm : mirrorsInto b s.rs.toList p = true) :
    p < s.cfg.robSize ∧ (s.entry p).Pending := by
  obtain ⟨id', hid', hbusy', -, -, hd⟩ := (h.mirrors_iff p).mp hm
  obtain ⟨hlt, hpend, -⟩ := h.inv.stations.entry_pending hid' hbusy' hd
  exact ⟨hlt, hpend⟩

theorem entry_self : (s.wroteBack b id i rest c).entry b = (s.entry b).wrote c := by
  have hnot : ¬ mirrorsInto b s.rs.toList b = true := by
    rw [h.mirrors_iff_of_station h.mem h.busy h.dest]
    obtain ⟨-, -, hj, -⟩ := h.running
    simp [hj]
  refine (getD_foldl_mirrorInto b c.result s.rs.toList _ b).trans ?_
  rw [if_neg fun hm => hnot hm.2]
  exact entry_setEntry_same s _ (h.inv.shape.robLength ▸ h.b_lt)

theorem entry_of_ne {p : Nat} (hne : p ≠ b) : (s.wroteBack b id i rest c).entry p =
    if mirrorsInto b s.rs.toList p = true then { s.entry p with value := c.result, valueReady := true }
    else s.entry p := by
  have hentry : (s.rob.set b ((s.entry b).wrote c)).getD p {} = s.entry p := entry_setEntry_other s _ hne
  refine (getD_foldl_mirrorInto b c.result s.rs.toList _ p).trans ?_
  rw [hentry]
  refine if_congr (and_iff_right_of_imp fun hm => ?_) rfl rfl
  rw [List.length_set, h.inv.shape.robLength]
  exact (h.pending_of_mirrors hm).1

theorem state_of_ne {p : Nat} (hne : p ≠ b) :
    ((s.wroteBack b id i rest c).entry p).state = (s.entry p).state := by
  rw [h.entry_of_ne hne]
  split <;> rfl

theorem sameInstruction (p : Nat) : (s.entry p).SameInstruction ((s.wroteBack b id i rest c).entry p) := by
  by_cases heq : p = b
  · subst heq
    rw [h.entry_self]
    refine ⟨rfl, rfl, rfl, rfl, fun _ => by simp [RobEntry.wrote], fun hblank => ?_⟩
    have := h.executing
    simp [hblank] at this
  · rw [h.entry_of_ne heq]
    split
    · next hm =>
      exact ⟨rfl, rfl, rfl, rfl, fun hst => hst, fun hblank => absurd hblank (h.pending_of_mirrors hm).2.ne_empty⟩
    · exact .rfl

theorem pending_iff (p : Nat) :
    ((s.wroteBack b id i rest c).entry p).Pending ↔ p ≠ b ∧ (s.entry p).Pending := by
  by_cases heq : p = b
  · simp [heq, h.entry_self, RobEntry.wrote, RobEntry.Pending]
  · simp [heq, RobEntry.Pending, h.state_of_ne heq]

/-- The entry of another busy station is another one. -/
theorem dest_ne {id' : StationId} {p : Nat} (hne : id' ≠ id) (hid' : id' ∈ s.cfg.stationOrder)
    (hbusy' : (s.station id').busy = true) (hp : (s.station id').destRob = some p) : p ≠ b :=
  h.inv.stations.dest_ne h.mem hid' h.busy hbusy' h.dest hp hne

theorem shape : Shape (s.wroteBack b id i rest c) :=
  h.inv.shape.withExecution ((length_foldl_mirrorInto _ _ _ _).trans List.length_set) (by simp) List.length_set

theorem stations : StationsMatchEntries (s.wroteBack b id i rest c) where
  entryOf id' hid' hbusy := by
    obtain ⟨hne, hbusy'⟩ := h.station_before hbusy
    obtain ⟨p, hp, hdest, hpend, hidx, hop, hgroup⟩ := h.inv.stations.entryOf id' hid' hbusy'
    rw [h.station_of_ne hne, receive_destRob, receive_instructionIndex, receive_op]
    refine ⟨p, hp, hdest, (h.pending_iff p).mpr ⟨h.dest_ne hne hid' hbusy' hdest, hpend⟩, ?_, ?_, hgroup⟩
    · exact hidx.trans (h.sameInstruction p).index.symm
    · exact hop.trans (h.sameInstruction p).kind.symm
  free id' hid' hfree := by
    rw [h.station] at hfree ⊢
    split
    · rfl
    · next hne =>
      rw [if_neg hne, receive_busy] at hfree
      rw [receive_of_free _ hfree]
      exact h.inv.stations.free id' hid' hfree
  unique id₁ hid₁ id₂ hid₂ hbusy₁ hbusy₂ hdest := by
    obtain ⟨hne₁, hb₁⟩ := h.station_before hbusy₁
    obtain ⟨hne₂, hb₂⟩ := h.station_before hbusy₂
    rw [h.station_of_ne hne₁, h.station_of_ne hne₂, receive_destRob, receive_destRob] at hdest
    exact h.inv.stations.unique id₁ hid₁ id₂ hid₂ hb₁ hb₂ hdest
  stationOf p hp hpend := by
    obtain ⟨hne, hpend'⟩ := (h.pending_iff p).mp hpend
    obtain ⟨id', hid', hprod⟩ := h.inv.stations.stationOf p hp hpend'
    obtain ⟨hbusy', hdest'⟩ := producesInto_iff.mp hprod
    refine ⟨id', hid', ?_⟩
    have hne' : id' ≠ id := by
      rintro rfl
      exact hne (Option.some.inj (hdest'.symm.trans h.dest))
    rw [h.station_of_ne hne', producesInto_iff]
    simp [hbusy', hdest']

/-- A tag that is not `b` stays good; the tag `b` is cleared. -/
theorem tagOlder {tag : Option Nat} {n : Nat} (ht : s.TagOlder tag n) :
    (s.wroteBack b id i rest c).TagOlder (if tag = some b then none else tag) n := by
  split
  · intro p hp
    cases hp
  · next hne =>
    refine ht.withExecution h.sameInstruction fun p hp hpend => (h.pending_iff p).mpr ⟨?_, hpend⟩
    rintro rfl
    exact hne hp

/-- A property of single stations that freeing and receiving keep holds of all stations afterwards. -/
theorem forall_station {P : Station → Prop} (hP : ∀ id' ∈ s.cfg.stationOrder, P (s.station id')) (hfree : P {})
    (hreceive : ∀ q : Station, q.busy = true → P q → P (q.receive b c.result)) :
    ∀ id' ∈ s.cfg.stationOrder, P ((s.wroteBack b id i rest c).station id') := by
  intro id' hid'
  rw [h.station]
  split
  · exact hfree
  · cases hbusy : (s.station id').busy
    · rw [receive_of_free _ hbusy]
      exact hP id' hid'
    · exact hreceive _ hbusy (hP id' hid')

theorem operands : OperandsAreExclusive (s.wroteBack b id i rest c) where
  tagJ id' hid' hbusy := by
    obtain ⟨hne, hbusy'⟩ := h.station_before hbusy
    rw [h.station_of_ne hne, receive_qj _ hbusy', receive_instructionIndex]
    exact h.tagOlder (h.inv.operands.tagJ id' hid' hbusy')
  tagK id' hid' hbusy := by
    obtain ⟨hne, hbusy'⟩ := h.station_before hbusy
    rw [h.station_of_ne hne, receive_qk _ hbusy', receive_instructionIndex]
    exact h.tagOlder (h.inv.operands.tagK id' hid' hbusy')
  valueJ := h.forall_station (P := fun q => q.qj ≠ none → q.vj = 0) h.inv.operands.valueJ (by simp)
    fun q hbusy hq => by
    rw [receive_qj _ hbusy, receive_vj _ hbusy]
    split <;> simp_all
  valueK := h.forall_station (P := fun q => q.qk ≠ none → q.vk = 0) h.inv.operands.valueK (by simp)
    fun q hbusy hq => by
    rw [receive_qk _ hbusy, receive_vk _ hbusy]
    split <;> simp_all
  loadJ := h.forall_station (P := fun q => q.op = some .load → q.qj = none ∧ q.vj = 0) h.inv.operands.loadJ
    (by simp) fun q hbusy hq hop => by
    obtain ⟨hj, hv⟩ := hq (by simpa using hop)
    simp [receive_qj _ hbusy, receive_vj _ hbusy, hj, hv]
  offset := h.forall_station (P := fun q => q.op ≠ some .load → q.op ≠ some .store → q.a = 0)
    h.inv.operands.offset (by simp) fun q _ hq hload hstore => by
    rw [receive_a]
    exact hq (by simpa using hload) (by simpa using hstore)

theorem values : EntryValues (s.wroteBack b id i rest c) where
  written p hp hst := by
    by_cases heq : p = b
    · rw [heq, h.entry_self]
      rfl
    · rw [h.state_of_ne heq] at hst
      rw [h.entry_of_ne heq]
      split
      · rfl
      · exact h.inv.values.written p hp hst
  unwritten id' hid' hbusy p hp := by
    obtain ⟨hne, hbusy'⟩ := h.station_before hbusy
    rw [h.station_of_ne hne] at hp ⊢
    rw [receive_destRob] at hp
    obtain ⟨haddr, hval⟩ := h.inv.values.unwritten id' hid' hbusy' p hp
    have hmirror := h.mirrors_iff_of_station hid' hbusy' hp
    rw [h.entry_of_ne (h.dest_ne hne hid' hbusy' hp), receive_op, receive_vj _ hbusy', receive_qj _ hbusy']
    grind

theorem running_of_ne {id' : StationId} (hne : id' ≠ id) (hrun : s.Running id') :
    (s.wroteBack b id i rest c).Running id' := by
  rw [State.Running, h.station_of_running hne hrun]
  obtain ⟨hid', hbusy', hj, hk, hst⟩ := hrun
  refine ⟨hid', hbusy', hj, hk, fun p hp => ?_⟩
  rw [h.state_of_ne (h.dest_ne hne hid' hbusy' hp)]
  exact hst p hp

theorem tracked : TrackedMidCycle (s.wroteBack b id i rest c) := by
  have htr := h.inv.tracked
  obtain ⟨hb, hrest⟩ := List.nodup_cons.mp (h.front ▸ htr.queueDistinct)
  refine ⟨htr.recordsDistinct, fun f hf => ?record, hrest, fun p hp => ?queued,
    fun id' hid' hbusy p hp hst => ?executing⟩
  case record =>
    obtain ⟨hrun, hi⟩ := htr.record f hf
    have hne : f.rs ≠ id := fun heq => h.not_tracked (heq ▸ List.mem_map_of_mem hf)
    rw [h.station_of_running hne hrun]
    exact ⟨h.running_of_ne hne hrun, hi⟩
  case queued =>
    have hne : p ≠ b := by
      rintro rfl
      exact hb hp
    obtain ⟨hlt, hst, hstation⟩ := htr.queued p (h.front ▸ List.mem_cons_of_mem b hp)
    rw [h.state_of_ne hne]
    refine ⟨hlt, hst, fun id' hid' hprod => ?_⟩
    obtain ⟨hbusy, hdest⟩ := producesInto_iff.mp hprod
    obtain ⟨hne', hbusy'⟩ := h.station_before hbusy
    rw [h.station_of_ne hne', receive_destRob] at hdest
    exact (hstation id' hid' (producesInto_iff.mpr ⟨hbusy', hdest⟩)).imp_left (h.running_of_ne hne')
  case executing =>
    obtain ⟨hne, hbusy'⟩ := h.station_before hbusy
    rw [h.station_of_ne hne, receive_destRob] at hp
    have hne' := h.dest_ne hne hid' hbusy' hp
    rw [h.state_of_ne hne'] at hst
    refine (htr.executing id' hid' hbusy' p hp hst).imp_right fun hmem => ?_
    rw [h.front] at hmem
    exact List.mem_of_ne_of_mem hne' hmem

theorem stamps (hbefore : ∀ y ∈ (s.stampOf i).executionComplete, y < s.cycle) :
    StampsMidCycle (s.wroteBack b id i rest c) := by
  obtain ⟨j, hj, hb, hi, -⟩ := h.inv.station_place h.mem h.busy h.dest h.index
  have hlen : i < s.prog.length := by
    rw [hi]
    exact (h.inv.queue.index_lt_pc hj).trans_le h.inv.shape.pcRange
  have hstamp := stampOf_setStamp (fun x => { x with writeResult := some s.cycle }) (h.inv.shape.stampLength ▸ hlen)
  have hnew : (s.wroteBack b id i rest c).stampOf (s.pc - s.inFlight + j) =
      { s.stampOf i with writeResult := some s.cycle } := by
    rw [← hi]
    exact (hstamp _).trans (if_pos rfl)
  have hfly := h.inv.stamps.flying j hj
  rw [← hi, ← hb] at hfly
  obtain ⟨hissue, hec, -, hcommit⟩ := hfly
  have hcomplete := hec.mpr (.inr (h.front ▸ List.mem_cons_self))
  obtain ⟨hibound, hebound, -⟩ := h.inv.stamps.ordered _ hlen
  refine h.inv.stamps.withExecution h.inv.queue hj hnew (fun n hn => ?others) ?ordered ?flight
    fun j' hj' hne x hx => ?rest
  case others => exact (hstamp n).trans (if_neg (hi ▸ hn))
  case ordered =>
    obtain ⟨y, hy⟩ := Option.isSome_iff_exists.mp hcomplete
    refine ⟨hibound, hebound, fun z hz => ?_, by simp [hcommit]⟩
    obtain rfl : s.cycle = z := by simpa using hz
    exact ⟨Nat.lt_succ_self _, y, hy, hbefore y hy⟩
  case flight =>
    change (s.wroteBack b id i rest c).FlightStamps _ _
    rw [← hb, State.FlightStamps, h.entry_self]
    exact ⟨hissue, iff_of_true hcomplete (.inl rfl), iff_of_true rfl rfl, hcommit⟩
  case rest =>
    have hslot : s.slot j' ≠ b := fun heq =>
      hne (slot_inj (hj'.trans_le (inFlight_le s)) (hj.trans_le (inFlight_le s)) (heq.trans hb))
    rw [State.FlightStamps, h.front, List.mem_cons, or_iff_right hslot] at hx
    change (s.wroteBack b id i rest c).FlightStamps _ _
    rw [State.FlightStamps, h.state_of_ne hslot]
    exact hx

theorem midCycle (hbefore : ∀ y ∈ (s.stampOf i).executionComplete, y < s.cycle) :
    MidCycle (s.wroteBack b id i rest c) where
  shape := h.shape
  queue := h.inv.queue.withExecution h.sameInstruction
  rename := h.inv.rename.withExecution h.sameInstruction
  stations := h.stations
  operands := h.operands
  values := h.values
  tracked := h.tracked
  stamps := h.stamps hbefore

end Writes

/-- No execution completed in the current cycle yet: so it is up to Execute-Advance. -/
def State.CompletedBefore (s : State) : Prop :=
  ∀ i < s.prog.length, ∀ y ∈ (s.stampOf i).executionComplete, y < s.cycle

/-- Commit sets no completion stamp. -/
theorem commit_completedBefore (h : PipelineInvariant s) (hc : commit s = .next t) : t.CompletedBefore := by
  have hs : s.CompletedBefore := fun i hi y hy => by
    obtain ⟨-, hcompleted, -⟩ := h.stamps.ordered i hi
    exact (hcompleted y hy).1
  obtain rfl | ⟨hr, i, status, regs, mem, events, hi, -, rfl⟩ := commit_retires hc h.store_has_no_destination
  · exact hs
  · have hlt : i < s.stamp.length := by
      rw [h.shape.stampLength]
      exact (h.headRetires hr hi).lt_pc.trans_le h.shape.pcRange
    intro n hn y hy
    change y ∈ ((s.retired i status).stampOf n).executionComplete at hy
    rw [retired_stampOf hlt] at hy
    split at hy
    · next heq => exact hs n hn y (heq ▸ hy)
    · exact hs n hn y hy

/-- Write-Result keeps the mid-cycle invariant. -/
theorem writeResult_midCycle (h : MidCycle s) (hbefore : s.CompletedBefore) (hw : writeResult s = .next t) :
    MidCycle t := by
  obtain rfl | ⟨b, id, i, rest, c, events, hwrites, rfl⟩ := writeResult_writes h hw
  · exact h
  · obtain ⟨j, hj, -, hi, -⟩ := h.station_place hwrites.mem hwrites.busy hwrites.dest hwrites.index
    have hlen : i < s.prog.length := by
      rw [hi]
      exact (h.queue.index_lt_pc hj).trans_le h.shape.pcRange
    exact (hwrites.midCycle (hbefore i hlen)).withArch

end Sys2Proof.Machine
end

section
/-! PROOF. Issue keeps the pipeline invariant (R120 to R133): a new entry at the tail, with its station and its name. -/

namespace Sys2Proof.Machine

/-- What capture may hand to a station (R126, R132): a value, or a live older tag with V = 0. -/
structure State.OperandFits (s : State) (o : Operand) : Prop where
  tag : s.TagOlder o.q s.pc
  value : o.q ≠ none → o.v = 0

/-- A free entry and a free station `id` for an instruction of kind `k` (R120). -/
structure CanIssue (s : State) (k : Kind) (id : StationId) : Prop where
  inv : MidCycle s
  room : 0 < s.entriesAvailable
  more : s.pc < s.prog.length
  mem : id ∈ s.cfg.stationOrder
  cleared : s.station id = {}
  group : id.group = groupOf k

/-- What an Issue puts into station `id` and into the tail entry (R122, R125 to R129). -/
structure Issues (s : State) (k : Kind) (dest : Option RegIdx) (id : StationId) (q : Station) (e : RobEntry) : Prop
    extends CanIssue s k id where
  destOf : dest = none ↔ k = .store
  busy : q.busy = true
  op : q.op = some k
  index : q.instructionIndex = some s.pc
  destRob : q.destRob = some s.tail
  operandJ : s.OperandFits ⟨q.vj, q.qj⟩
  operandK : s.OperandFits ⟨q.vk, q.qk⟩
  loadJ : k = .load → q.qj = none ∧ q.vj = 0
  offset : k ≠ .load → k ≠ .store → q.a = 0
  entry : ∃ v ready, e = { issuedEntry k dest s.pc with value := v, valueReady := ready } ∧
    if k = .store then v = q.vj ∧ (ready = true ↔ q.qj = none) else v = 0 ∧ ready = false

variable {s s1 t : State} {k : Kind} {dest : Option RegIdx} {id : StationId} {q : Station} {e : RobEntry}

/-! What Issue does -/

theorem set_set (p : StationPool) (id : StationId) (q q' : Station) : (p.set id q).set id q' = p.set id q' := by
  obtain ⟨g, k⟩ := id
  cases g <;> simp [StationPool.set]

theorem setStation_setStation (s : State) (id : StationId) (q q' : Station) :
    (s.setStation id q).setStation id q' = s.setStation id q' := by
  simp only [State.setStation, set_set]

theorem setEntry_setEntry (s : State) (p : Nat) (e e' : RobEntry) :
    (s.setEntry p e).setEntry p e' = s.setEntry p e' := by
  simp only [State.setEntry, List.set_set]

/-- A value needs no producer. -/
theorem operandFits_value (s : State) (v : Int) : s.OperandFits ⟨v, none⟩ :=
  ⟨nofun, fun h => absurd rfl h⟩

/-- The start of Issue succeeds on a free entry and a free station, which is clear. -/
theorem beginIssue_canIssue (h : MidCycle s) (hb : beginIssue k dest s = some (id, s1)) :
    CanIssue s k id ∧ s1 = (s.allocateEntry k dest).setStation id (({} : Station).occupy k s.pc s.tail) := by
  obtain ⟨hpick, hmore, hroom, rfl⟩ := beginIssue_cases hb
  obtain ⟨-, hgroup, hexists, hfree⟩ := pickStation_spec hpick
  have hid := mem_of_stationExists h.shape hexists
  have hcleared := h.stations.free id hid hfree
  exact ⟨⟨h, hroom, hmore, hid, hcleared, hgroup⟩, by rw [hcleared]⟩

namespace CanIssue

variable (h : CanIssue s k id)
include h

theorem tail_lt : s.tail < s.rob.length := h.inv.shape.robLength ▸ h.inv.shape.tailRange

theorem tail_free : s.entry s.tail = {} := h.inv.queue.tail_free h.inv.shape h.room

theorem ne_tail_of_pending {p : Nat} (hp : (s.entry p).Pending) : p ≠ s.tail := by
  rintro rfl
  exact hp.ne_empty h.tail_free

theorem ne_tail_of_busy {p : Nat} (hp : (s.entry p).busy = true) : p ≠ s.tail := by
  rintro rfl
  exact RobEntry.ne_empty_of_busy hp h.tail_free

/-- The new entry alone differs while Issue captures the operands. -/
theorem entry_begun (p : Nat) (q : Station) : ((s.allocateEntry k dest).setStation id q).entry p =
    if p = s.tail then issuedEntry k dest s.pc else s.entry p :=
  entry_setEntry _ h.tail_lt p

theorem station_begun (q : Station) : ((s.allocateEntry k dest).setStation id q).station id = q :=
  station_setStation_same (s.allocateEntry k dest) q (stationExists_of_mem (s := s) h.inv.shape h.mem)

/-- An operand captured during Issue (R126) is a value or the tag of a pending producer. -/
theorem capture_fits {r : RegIdx} {o : Operand} (ho : capture ((s.allocateEntry k dest).setStation id q) r = some o) :
    s.OperandFits o := by
  unfold capture at ho
  split at ho
  · next hbusy =>
    obtain ⟨p, hp, hrob, hpbusy, hpdest⟩ := h.inv.rename.producer r hbusy
    have hrob' : (((s.allocateEntry k dest).setStation id q).rename r).robIndex = some p := hrob
    rw [hrob'] at ho
    dsimp only at ho
    rw [h.entry_begun, if_neg (h.ne_tail_of_busy hpbusy)] at ho
    split at ho
    · cases ho
      exact operandFits_value s _
    · next hnot =>
      cases ho
      refine ⟨fun p' hp' => ?_, fun _ => rfl⟩
      obtain rfl := Option.some.inj hp'
      obtain ⟨j, hj, rfl, hlive⟩ := h.inv.queue.place h.inv.shape (RobEntry.ne_empty_of_busy hpbusy)
      have hage := h.inv.queue.index_lt_pc hj
      have hwritten := h.inv.values.written _ hp
      refine ⟨hp, ?_, fun hstore => ?_, by rwa [hlive.age_eq]⟩
      · obtain ⟨-, hst, -⟩ := hlive
        cases hstate : (s.entry (s.slot j)).state <;>
          simp_all [RobEntry.Pending, RobEntry.forwards]
      · have hnone := hlive.dest_iff.mpr hstore
        simp [hpdest] at hnone
  · cases ho
    exact operandFits_value s _

end CanIssue

/-- Issue of an arithmetic instruction, a LOAD or a STORE ends in the same change of the tables. -/
theorem issue_tables (q0 q : Station) :
    ((((s.allocateEntry k dest).setStation id q0).setStation id q).renameDest dest s.tail).advancePc =
      s.afterIssue dest id q (issuedEntry k dest s.pc) := by
  rw [setStation_setStation]
  cases dest <;> rfl

/-- The entry of a STORE whose station holds `q`: known data goes there at once (R129). -/
def issuedStore (s : State) (q : Station) : RobEntry :=
  { issuedEntry .store none s.pc with value := q.vj, valueReady := q.qj.isNone }

/-- With V = 0 beside a tag (R32), the entry of a STORE holds its station's data in any case. -/
theorem issueStore_tables (h : CanIssue s .store id) (q0 q : Station) (hv : q.qj ≠ none → q.vj = 0) :
    ((((s.allocateEntry .store none).setStation id q0).setStation id q).storeDataAtIssue s.tail q).advancePc =
      s.afterIssue none id q (issuedStore s q) := by
  rw [setStation_setStation]
  by_cases hj : q.qj = none
  · have hentry : (((s.allocateEntry .store none).setStation id q).entry s.tail) = issuedEntry .store none s.pc :=
      (h.entry_begun s.tail q).trans (if_pos rfl)
    have hstore : ((s.allocateEntry .store none).setStation id q).storeDataAtIssue s.tail q =
        ((s.allocateEntry .store none).setStation id q).setEntry s.tail (issuedStore s q) := by
      rw [State.storeDataAtIssue, if_pos hj, hentry, issuedStore, hj]
      rfl
    have hcommute : ((s.allocateEntry .store none).setStation id q).setEntry s.tail (issuedStore s q) =
        (((s.setEntry s.tail (issuedEntry .store none s.pc)).setEntry s.tail (issuedStore s q)).advanceTail.setStamp
          s.pc fun x => { x with issue := some s.cycle }).setStation id q := rfl
    rw [hstore, hcommute, setEntry_setEntry]
    rfl
  · have hpending : issuedStore s q = issuedEntry .store none s.pc := by
      simpa [issuedStore, issuedEntry, hv hj] using Option.isSome_iff_ne_none.mpr hj
    rw [State.storeDataAtIssue, if_neg hj, hpending]
    rfl

theorem CanIssue.issues_arith (h : CanIssue s k id) {rd : RegIdx} {o1 o2 : Operand} (hload : k ≠ .load)
    (hstore : k ≠ .store) (h1 : s.OperandFits o1) (h2 : s.OperandFits o2) :
    Issues s k (some rd) id ((({} : Station).occupy k s.pc s.tail).wireArith o1 o2) (issuedEntry k (some rd) s.pc) where
  toCanIssue := h
  destOf := by simp [hstore]
  busy := rfl
  op := rfl
  index := rfl
  destRob := rfl
  operandJ := h1
  operandK := h2
  loadJ := fun hk => absurd hk hload
  offset := fun _ _ => rfl
  entry := ⟨0, false, rfl, by simp [hstore]⟩

theorem CanIssue.issues_load (h : CanIssue s .load id) {rd : RegIdx} {o : Operand} (offset : Int)
    (ho : s.OperandFits o) :
    Issues s .load (some rd) id ((({} : Station).occupy .load s.pc s.tail).wireLoad offset o)
      (issuedEntry .load (some rd) s.pc) where
  toCanIssue := h
  destOf := by simp
  busy := rfl
  op := rfl
  index := rfl
  destRob := rfl
  operandJ := operandFits_value s 0
  operandK := ho
  loadJ := fun _ => ⟨rfl, rfl⟩
  offset := fun hk => absurd rfl hk
  entry := ⟨0, false, rfl, by simp⟩

theorem CanIssue.issues_store (h : CanIssue s .store id) {od ob : Operand} (offset : Int) (hd : s.OperandFits od)
    (hb : s.OperandFits ob) :
    Issues s .store none id ((({} : Station).occupy .store s.pc s.tail).wireStore od offset ob)
      (issuedStore s ((({} : Station).occupy .store s.pc s.tail).wireStore od offset ob)) where
  toCanIssue := h
  destOf := by simp
  busy := rfl
  op := rfl
  index := rfl
  destRob := rfl
  operandJ := hd
  operandK := hb
  loadJ := nofun
  offset := fun _ hk => absurd rfl hk
  entry := ⟨_, _, rfl, by simp⟩

theorem issueArith_issues {rd rs1 rs2 : RegIdx} (h : MidCycle s) (hload : k ≠ .load) (hstore : k ≠ .store)
    (hi : issueArith k rd rs1 rs2 s = .next t) :
    t = s ∨ ∃ id q e, Issues s k (some rd) id q e ∧ t = s.afterIssue (some rd) id q e := by
  obtain ⟨-, rfl⟩ | ⟨id, s1, o1, o2, hb, h1, h2, rfl⟩ := issueArith_cases hi
  · exact .inl rfl
  · obtain ⟨hcan, rfl⟩ := beginIssue_canIssue h hb
    rw [hcan.station_begun, issue_tables]
    exact .inr ⟨id, _, _, hcan.issues_arith hload hstore (hcan.capture_fits h1) (hcan.capture_fits h2), rfl⟩

/-- Issue stalls, or changes the tables as `Issues` says (R120 to R132). -/
theorem exec_issues {i : Instr} (h : MidCycle s) (hi : exec i s = .next t) :
    t = s ∨ ∃ id q e, Issues s i.kind i.dest id q e ∧ t = s.afterIssue i.dest id q e := by
  cases i with
  | add rd rs1 rs2 => exact issueArith_issues h nofun nofun hi
  | sub rd rs1 rs2 => exact issueArith_issues h nofun nofun hi
  | mul rd rs1 rs2 => exact issueArith_issues h nofun nofun hi
  | div rd rs1 rs2 => exact issueArith_issues h nofun nofun hi
  | load rd offset base =>
    obtain ⟨-, rfl⟩ | ⟨id, s1, o, hb, ho, rfl⟩ := issueLoad_cases hi
    · exact .inl rfl
    · obtain ⟨hcan, rfl⟩ := beginIssue_canIssue h hb
      rw [hcan.station_begun, issue_tables]
      exact .inr ⟨id, _, _, hcan.issues_load _ (hcan.capture_fits ho), rfl⟩
  | store rsrc offset base =>
    obtain ⟨-, rfl⟩ | ⟨id, s1, od, ob, hb, hd, ho, rfl⟩ := issueStore_cases hi
    · exact .inl rfl
    · obtain ⟨hcan, rfl⟩ := beginIssue_canIssue h hb
      have hfits := hcan.capture_fits hd
      rw [hcan.station_begun, issueStore_tables hcan _ _ hfits.value]
      exact .inr ⟨id, _, _, hcan.issues_store _ hfits (hcan.capture_fits ho), rfl⟩

/-! The tables after Issue -/

namespace Issues

variable (h : Issues s k dest id q e)
include h

theorem entry_after (p : Nat) : (s.afterIssue dest id q e).entry p = if p = s.tail then e else s.entry p :=
  entry_setEntry e h.tail_lt p

theorem entry_of_ne {p : Nat} (hne : p ≠ s.tail) : (s.afterIssue dest id q e).entry p = s.entry p := by
  rw [h.entry_after, if_neg hne]

theorem entry_of_pending {p : Nat} (hp : (s.entry p).Pending) : (s.afterIssue dest id q e).entry p = s.entry p :=
  h.entry_of_ne (h.ne_tail_of_pending hp)

theorem station_after (id' : StationId) :
    (s.afterIssue dest id q e).station id' = if id' = id then q else s.station id' :=
  station_setStation q (stationExists_of_mem h.inv.shape h.mem) id'

/-- A station that was busy is another one. -/
theorem station_of_busy {id' : StationId} (hbusy : (s.station id').busy = true) :
    id' ≠ id ∧ (s.afterIssue dest id q e).station id' = s.station id' := by
  have hne : id' ≠ id := by
    rintro rfl
    simp [h.cleared] at hbusy
  exact ⟨hne, by rw [h.station_after, if_neg hne]⟩

theorem rename_after (r : RegIdx) : (s.afterIssue dest id q e).rename r =
    if dest = some r then { busy := true, robIndex := some s.tail } else s.rename r := by
  cases dest with
  | none => rfl
  | some r' =>
    refine (rename_setRename (s := s) r' { busy := true, robIndex := some s.tail } r).trans ?_
    exact if_congr (by rw [Option.some.injEq, eq_comm]) rfl rfl

theorem stampOf_after (n : Nat) : (s.afterIssue dest id q e).stampOf n =
    if n = s.pc then { s.stampOf s.pc with issue := some s.cycle } else s.stampOf n :=
  stampOf_setStamp (fun x => { x with issue := some s.cycle }) (h.inv.shape.stampLength ▸ h.more) n

theorem inFlight_after : (s.afterIssue dest id q e).inFlight = s.inFlight + 1 := by
  have := h.room
  have := h.inv.shape.availableRange
  change s.cfg.robSize - (s.entriesAvailable - 1) = s.cfg.robSize - s.entriesAvailable + 1
  omega

theorem inFlight_lt : s.inFlight < s.cfg.robSize := by
  have := h.room
  have := h.inv.shape.availableRange
  unfold State.inFlight
  omega

theorem live : e.Live s.pc := by
  obtain ⟨v, ready, rfl, -⟩ := h.entry
  exact ⟨rfl, by simp [issuedEntry], rfl, by simp [issuedEntry], by simpa [issuedEntry] using h.destOf⟩

theorem state : e.state = .issued := by
  obtain ⟨v, ready, rfl, -⟩ := h.entry
  rfl

theorem entry_dest : e.destinationRegister = dest := by
  obtain ⟨v, ready, rfl, -⟩ := h.entry
  rfl

theorem entry_kind : e.kind = some k := by
  obtain ⟨v, ready, rfl, -⟩ := h.entry
  rfl

theorem shape : Shape (s.afterIssue dest id q e) :=
  { h.inv.shape with
    robLength := List.length_set.trans h.inv.shape.robLength
    groupLength := fun g => (length_group_set s.rs id q g).trans (h.inv.shape.groupLength g)
    stampLength := List.length_set.trans h.inv.shape.stampLength
    pcRange := h.more
    tailRange := Nat.mod_lt _ h.inv.shape.robSize_pos
    availableRange := (Nat.sub_le _ _).trans h.inv.shape.availableRange }

/-- The slots in flight before are not the tail. -/
theorem slot_ne_tail {j : Nat} (hj : j < s.cfg.robSize) (hne : j ≠ s.inFlight) : s.slot j ≠ s.tail := by
  rw [h.inv.queue.tailPlace]
  exact fun heq => hne (slot_inj hj h.inFlight_lt heq)

theorem queue : RobIsQueue (s.afterIssue dest id q e) := by
  have hfly := h.inFlight_after
  have hissued := h.inv.queue.issued
  have hlt := h.inFlight_lt
  have hq := h.inv.queue
  refine ⟨?issued, ?tailPlace, fun j hj => ?live, fun j hj hge => ?free⟩
  case issued =>
    rw [hfly]
    exact Nat.succ_le_succ hissued
  case tailPlace =>
    rw [hfly]
    change nextIndex s.cfg s.tail = s.slot (s.inFlight + 1)
    rw [hq.tailPlace, nextIndex_slot]
  case live =>
    rw [hfly] at hj ⊢
    change ((s.afterIssue dest id q e).entry (s.slot j)).Live (s.pc + 1 - (s.inFlight + 1) + j)
    rw [Nat.add_sub_add_right]
    by_cases heq : j = s.inFlight
    · rw [heq, ← hq.tailPlace, h.entry_after, if_pos rfl, Nat.sub_add_cancel hissued]
      exact h.live
    · rw [h.entry_of_ne (h.slot_ne_tail (by omega) heq)]
      exact hq.live j (by omega)
  case free =>
    rw [hfly] at hge
    change (s.afterIssue dest id q e).entry (s.slot j) = {}
    rw [h.entry_of_ne (h.slot_ne_tail hj (by omega))]
    exact hq.free j hj (by omega)

theorem rename : RenameIsYoungest (s.afterIssue dest id q e) := by
  refine ⟨fun r hr => ?producer, fun r hr => ?idle, fun r p hp hd => ?youngest⟩
  case producer =>
    rw [h.rename_after] at hr ⊢
    split
    · next hdest =>
      refine ⟨s.tail, h.inv.shape.tailRange, rfl, ?_⟩
      rw [h.entry_after, if_pos rfl]
      exact ⟨h.live.entryBusy, h.entry_dest.trans hdest⟩
    · next hdest =>
      rw [if_neg hdest] at hr
      obtain ⟨p, hp, hrob, hbusy, hd⟩ := h.inv.rename.producer r hr
      refine ⟨p, hp, hrob, ?_⟩
      rw [h.entry_of_ne (h.ne_tail_of_busy hbusy)]
      exact ⟨hbusy, hd⟩
  case idle =>
    rw [h.rename_after] at hr ⊢
    split
    · next hdest => simp [hdest] at hr
    · next hdest =>
      rw [if_neg hdest] at hr
      exact h.inv.rename.idle r hr
  case youngest =>
    rw [h.rename_after]
    rw [h.entry_after] at hd ⊢
    split
    · -- the new entry is the youngest of all
      refine ⟨rfl, fun p' hp' => ?_⟩
      obtain rfl := Option.some.inj hp'
      rw [h.entry_after, if_pos rfl, h.live.age_eq]
      split
      · exact h.live.age_eq.le
      · next hne =>
        rw [if_neg hne] at hd
        obtain ⟨j, hj, -, hlive⟩ := h.inv.queue.place h.inv.shape (RobEntry.ne_empty_of_dest hd)
        rw [hlive.age_eq]
        exact (h.inv.queue.index_lt_pc hj).le
    · next hdest =>
      have hne : p ≠ s.tail := fun heq => hdest (by rwa [if_pos heq, h.entry_dest] at hd)
      rw [if_neg hne] at hd ⊢
      obtain ⟨hbusy, hold⟩ := h.inv.rename.youngest r p hp hd
      refine ⟨hbusy, fun p' hp' => ?_⟩
      obtain ⟨p'', -, hrob, hbusy'', -⟩ := h.inv.rename.producer r hbusy
      obtain rfl : p'' = p' := Option.some.inj (hrob.symm.trans hp')
      rw [h.entry_of_ne (h.ne_tail_of_busy hbusy'')]
      exact hold p'' hp'

theorem stations : StationsMatchEntries (s.afterIssue dest id q e) where
  entryOf id' hid' hbusy := by
    rw [h.station_after] at hbusy ⊢
    split
    · next heq =>
      refine ⟨s.tail, h.inv.shape.tailRange, h.destRob, ?_⟩
      rw [h.entry_after, if_pos rfl, h.op, h.entry_kind, h.index, heq, h.group]
      exact ⟨.inl h.state, h.live.index.symm, rfl, rfl⟩
    · next hne =>
      rw [if_neg hne] at hbusy
      obtain ⟨p, hp, hdest, hpend, hrest⟩ := h.inv.stations.entryOf id' hid' hbusy
      exact ⟨p, hp, hdest, by rwa [h.entry_of_pending hpend], by rwa [h.entry_of_pending hpend]⟩
  free id' hid' hfree := by
    rw [h.station_after] at hfree ⊢
    split
    · next heq => simp [heq, h.busy] at hfree
    · next hne =>
      rw [if_neg hne] at hfree
      exact h.inv.stations.free id' hid' hfree
  unique id₁ hid₁ id₂ hid₂ hbusy₁ hbusy₂ hdest := by
    have hnew {id' : StationId} (hid' : id' ∈ s.cfg.stationOrder) (hbusy : (s.station id').busy = true) :
        (s.station id').destRob ≠ some s.tail := fun hd =>
      h.ne_tail_of_pending (h.inv.stations.dest_pending hid' hbusy hd) rfl
    rw [h.station_after] at hbusy₁ hbusy₂
    rw [h.station_after, h.station_after] at hdest
    split at hbusy₁ <;> split at hbusy₂
    · next heq₁ heq₂ => exact heq₁.trans heq₂.symm
    · next heq₁ hne₂ =>
      rw [if_pos heq₁, if_neg hne₂, h.destRob] at hdest
      exact absurd hdest.symm (hnew hid₂ hbusy₂)
    · next hne₁ heq₂ =>
      rw [if_neg hne₁, if_pos heq₂, h.destRob] at hdest
      exact absurd hdest (hnew hid₁ hbusy₁)
    · next hne₁ hne₂ =>
      rw [if_neg hne₁, if_neg hne₂] at hdest
      exact h.inv.stations.unique id₁ hid₁ id₂ hid₂ hbusy₁ hbusy₂ hdest
  stationOf p hp hpend := by
    rw [h.entry_after] at hpend
    split at hpend
    · next heq =>
      refine ⟨id, h.mem, ?_⟩
      rw [h.station_after, if_pos rfl, producesInto_iff, heq]
      exact ⟨h.busy, h.destRob⟩
    · obtain ⟨id', hid', hprod⟩ := h.inv.stations.stationOf p hp hpend
      exact ⟨id', hid', by rwa [(h.station_of_busy (producesInto_iff.mp hprod).1).2]⟩

theorem tagOlder {tag : Option Nat} {n : Nat} (ht : s.TagOlder tag n) : (s.afterIssue dest id q e).TagOlder tag n := by
  intro p hp
  obtain ⟨hlt, hpend, hrest⟩ := ht p hp
  rw [h.entry_of_pending hpend]
  exact ⟨hlt, hpend, hrest⟩

/-- A property of single stations that the new one has holds of all stations afterwards. -/
theorem forall_station {P : Station → Prop} (hP : ∀ id' ∈ s.cfg.stationOrder, P (s.station id')) (hq : P q) :
    ∀ id' ∈ s.cfg.stationOrder, P ((s.afterIssue dest id q e).station id') := by
  intro id' hid'
  rw [h.station_after]
  split
  · exact hq
  · exact hP id' hid'

theorem operands : OperandsAreExclusive (s.afterIssue dest id q e) where
  tagJ := h.forall_station
    (P := fun q => q.busy = true → (s.afterIssue dest id q e).TagOlder q.qj (q.instructionIndex.getD 0))
    (fun id' hid' hbusy => h.tagOlder (h.inv.operands.tagJ id' hid' hbusy))
    fun _ => by simpa [h.index] using h.tagOlder h.operandJ.tag
  tagK := h.forall_station
    (P := fun q => q.busy = true → (s.afterIssue dest id q e).TagOlder q.qk (q.instructionIndex.getD 0))
    (fun id' hid' hbusy => h.tagOlder (h.inv.operands.tagK id' hid' hbusy))
    fun _ => by simpa [h.index] using h.tagOlder h.operandK.tag
  valueJ := h.forall_station (P := fun q => q.qj ≠ none → q.vj = 0) h.inv.operands.valueJ h.operandJ.value
  valueK := h.forall_station (P := fun q => q.qk ≠ none → q.vk = 0) h.inv.operands.valueK h.operandK.value
  loadJ := h.forall_station (P := fun q => q.op = some .load → q.qj = none ∧ q.vj = 0) h.inv.operands.loadJ
    fun hop => h.loadJ (Option.some.inj (h.op.symm.trans hop))
  offset := h.forall_station (P := fun q => q.op ≠ some .load → q.op ≠ some .store → q.a = 0)
    h.inv.operands.offset fun hload hstore => h.offset (by simpa [h.op] using hload) (by simpa [h.op] using hstore)

theorem values : EntryValues (s.afterIssue dest id q e) where
  written p hp hst := by
    rw [h.entry_after] at hst ⊢
    split at hst
    · simp [h.state] at hst
    · next hne =>
      rw [if_neg hne]
      exact h.inv.values.written p hp hst
  unwritten id' hid' hbusy p hp := by
    rw [h.station_after] at hbusy hp ⊢
    split
    · next heq =>
      rw [if_pos heq, h.destRob] at hp
      obtain rfl := Option.some.inj hp
      rw [h.entry_after, if_pos rfl, h.op]
      obtain ⟨v, ready, rfl, hval⟩ := h.entry
      exact ⟨rfl, by simpa using hval⟩
    · next hne =>
      rw [if_neg hne] at hbusy hp
      rw [h.entry_of_pending (h.inv.stations.dest_pending hid' hbusy hp)]
      exact h.inv.values.unwritten id' hid' hbusy p hp

theorem running {id' : StationId} (hrun : s.Running id') : (s.afterIssue dest id q e).Running id' := by
  rw [State.Running, (h.station_of_busy hrun.stationBusy).2]
  obtain ⟨hid', hbusy, hj, hk, hst⟩ := hrun
  refine ⟨hid', hbusy, hj, hk, fun p hp => ?_⟩
  rw [h.entry_of_pending (.inr (hst p hp))]
  exact hst p hp

theorem tracked : TrackedMidCycle (s.afterIssue dest id q e) := by
  have htr := h.inv.tracked
  refine ⟨htr.recordsDistinct, fun f hf => ?record, htr.queueDistinct, fun p hp => ?queued,
    fun id' hid' hbusy p hp hst => ?executing⟩
  case record =>
    obtain ⟨hrun, hi⟩ := htr.record f hf
    rw [(h.station_of_busy hrun.stationBusy).2]
    exact ⟨h.running hrun, hi⟩
  case queued =>
    obtain ⟨hlt, hst, hstation⟩ := htr.queued p hp
    have hpend : (s.entry p).Pending := .inr hst
    rw [h.entry_of_pending hpend]
    refine ⟨hlt, hst, fun id' hid' hprod => ?_⟩
    rw [h.station_after] at hprod
    split at hprod
    · exact absurd (Option.some.inj ((producesInto_iff.mp hprod).2.symm.trans h.destRob)) (h.ne_tail_of_pending hpend)
    · exact (hstation id' hid' hprod).imp_left h.running
  case executing =>
    rw [h.station_after] at hbusy hp
    rw [h.entry_after] at hst
    split at hst
    · simp [h.state] at hst
    · next hne =>
      have hne' : id' ≠ id := by
        rintro rfl
        rw [if_pos rfl, h.destRob] at hp
        exact hne (Option.some.inj hp).symm
      rw [if_neg hne'] at hbusy hp
      exact htr.executing id' hid' hbusy p hp hst

theorem stamps : StampsMidCycle (s.afterIssue dest id q e) := by
  have hfly := h.inFlight_after
  have hissued := h.inv.queue.issued
  have hst := h.inv.stamps
  have hblank := hst.unissued s.pc h.more (Nat.le_refl _)
  have hbase : s.pc + 1 - (s.inFlight + 1) = s.pc - s.inFlight := Nat.add_sub_add_right _ _ _
  refine ⟨fun n hn => ?ordered, fun n hn hge => ?unissued, fun n hn hlt => ?committed, fun j hj => ?flying,
    fun n hn m hm x hx => ?inOrder⟩
  case ordered =>
    rw [h.stampOf_after, hblank]
    split
    · exact ⟨fun x hx => Option.some.inj hx ▸ Nat.lt_succ_self s.cycle, nofun, nofun, nofun⟩
    · exact hst.ordered n hn
  case unissued =>
    have hge' : s.pc + 1 ≤ n := hge
    rw [h.stampOf_after, if_neg (by omega)]
    exact hst.unissued n hn (by omega)
  case committed =>
    rw [hfly] at hlt
    change n < s.pc + 1 - (s.inFlight + 1) at hlt
    rw [h.stampOf_after, if_neg (by omega)]
    exact hst.committed n hn (by omega)
  case flying =>
    rw [hfly] at hj ⊢
    change (s.afterIssue dest id q e).FlightStamps
      ((s.afterIssue dest id q e).stampOf (s.pc + 1 - (s.inFlight + 1) + j)) (s.slot j)
    rw [hbase, h.stampOf_after, hblank, State.FlightStamps, h.entry_after]
    by_cases heq : j = s.inFlight
    · -- the new instruction has only its issue stamp
      have hqueued : s.tail ∉ s.cdbq := fun hmem =>
        h.ne_tail_of_pending (.inr (h.inv.tracked.queued_executing hmem)) rfl
      rw [heq, ← h.inv.queue.tailPlace, if_pos (by omega), if_pos rfl, h.state]
      exact ⟨rfl, by simpa [State.afterIssue] using hqueued, by simp, rfl⟩
    · have hlt := h.inFlight_lt
      rw [if_neg (by omega), if_neg (h.slot_ne_tail (by omega) heq)]
      exact hst.flying j (by omega)
  case inOrder =>
    have hcommit (n : Nat) : ((s.afterIssue dest id q e).stampOf n).commit = (s.stampOf n).commit := by
      rw [h.stampOf_after]
      split
      · next heq => rw [heq]
      · rfl
    rw [hcommit] at hx ⊢
    exact hst.inOrder n hn m hm x hx

theorem midCycle : MidCycle (s.afterIssue dest id q e) where
  shape := h.shape
  queue := h.queue
  rename := h.rename
  stations := h.stations
  operands := h.operands
  values := h.values
  tracked := h.tracked
  stamps := h.stamps

end Issues

/-- The Issue phase keeps the mid-cycle invariant. -/
theorem issuePhase_midCycle (h : MidCycle s) (hi : issuePhase s = .next t) : MidCycle t := by
  obtain ⟨-, rfl⟩ | ⟨w, i, -, -, he⟩ | ⟨w, why, -, -, rfl⟩ := issuePhase_cases hi
  · exact h
  · obtain rfl | ⟨id, q, e, hissues, rfl⟩ := exec_issues h he
    · exact h
    · exact hissues.midCycle
  · exact h.withArch

end Sys2Proof.Machine
end

section
/-! PROOF. One clock cycle keeps the pipeline invariant (R100): the five phases, one after the other. -/

namespace Sys2Proof.Machine

variable {s t : State}

theorem runCycle_keeps_invariant (h : PipelineInvariant s) (hr : runCycle s = .next t) : PipelineInvariant t := by
  obtain ⟨s1, s2, s3, s4, s5, hcommit, hwrite, hissue, hstart, hadvance, rfl⟩ := runCycle_cases hr
  have h0 : PipelineInvariant s.clearEvents := h.withArch
  have h1 : MidCycle s1 := commit_midCycle h0 hcommit
  have h2 : MidCycle s2 := writeResult_midCycle h1 (commit_completedBefore h0 hcommit) hwrite
  have h3 : MidCycle s3 := issuePhase_midCycle h2 hissue
  obtain ⟨h4, hwait⟩ := executeStart_midCycle h3 hstart
  obtain ⟨h5, hcount, hwait⟩ := executeAdvance_midCycle h4 hadvance hwait
  exact h5.endOfCycle hcount hwait

/-- Settles O37: each phase keeps the mid-cycle invariant, and Execute-Start and Execute-Advance restore the clauses
that hold at the ends of a cycle only. -/
theorem stepKeepsPipelineInvariant : Obligations.StepKeepsPipelineInvariant :=
  fun _ _ h ht => runCycle_keeps_invariant h ht

end Sys2Proof.Machine
end

section
/-! PROOF. The reset state (R42, R250): every table reads as cleared, and the pipeline invariant holds. -/

namespace Sys2Proof.Machine

variable {c : Config} {program : List InstrWord}

/-! What the reset tables read as, at every index -/

@[simp] theorem entry_resetWith (p : Nat) : (State.resetWith c program).entry p = {} := by
  simp only [State.entry, State.resetWith]
  grind

@[simp] theorem group_resetWith (g : StationGroup) :
    (State.resetWith c program).rs.group g = List.replicate (c.groupSize g) {} := by
  cases g <;> rfl

@[simp] theorem station_resetWith (id : StationId) : (State.resetWith c program).station id = {} := by
  simp only [State.station, group_resetWith]
  grind

@[simp] theorem stampOf_resetWith (i : Nat) : (State.resetWith c program).stampOf i = {} := by
  simp only [State.stampOf, State.resetWith]
  grind

@[simp] theorem reg_resetWith (r : RegIdx) : (State.resetWith c program).reg r = c.regInit := by
  simp [State.reg, State.resetWith]

@[simp] theorem rename_resetWith (r : RegIdx) : (State.resetWith c program).rename r = {} := by
  simp [State.rename, State.resetWith]

theorem inFlight_resetWith : (State.resetWith c program).inFlight = 0 := Nat.sub_self _

theorem resetWith_shape (h : c.Legal) : Shape (State.resetWith c program) where
  legal := h
  robLength := List.length_replicate
  groupLength g := by
    rw [group_resetWith]
    exact List.length_replicate
  stampLength := List.length_replicate
  pcRange := Nat.zero_le _
  headRange := legal_robSize_pos h
  tailRange := legal_robSize_pos h
  availableRange := Nat.le_refl _

theorem resetWith_queue : RobIsQueue (State.resetWith c program) where
  issued := by simp [inFlight_resetWith]
  tailPlace := by
    rw [inFlight_resetWith]
    exact (Nat.zero_mod _).symm
  live j hj := by simp [inFlight_resetWith] at hj
  free _ _ _ := entry_resetWith _

theorem resetWith_stamps : StampsRecord (State.resetWith c program) where
  ordered i _ := by simp [Stamps.Ordered]
  unissued i _ _ := stampOf_resetWith i
  committed i _ hi := by simp [State.resetWith] at hi
  flying j hj := by simp [inFlight_resetWith] at hj
  inOrder i _ i' _ x hx := by simp at hx

/-- Every clause about a busy row, a busy station, a record, a queue element or an instruction in flight is vacuous. -/
theorem resetWith_invariant (h : c.Legal) : PipelineInvariant (State.resetWith c program) where
  shape := resetWith_shape h
  queue := resetWith_queue
  rename := ⟨by simp, by simp, by simp⟩
  stations := ⟨by simp, by simp, by simp, by simp [RobEntry.Pending]⟩
  operands := ⟨by simp, by simp, by simp, by simp, by simp, by simp⟩
  values := ⟨by simp, by simp⟩
  tracked := ⟨List.nodup_nil, nofun, List.nodup_nil, nofun, by simp, by simp⟩
  stamps := resetWith_stamps

/-- Settles O36: `State.reset` is the reset state of the default configuration, which is legal. -/
theorem resetMeetsPipelineInvariant : Obligations.ResetMeetsPipelineInvariant :=
  ⟨fun _ _ h => resetWith_invariant h, resetWith_invariant (by decide)⟩

/-- At the default configuration a word's reset value is its address, which fits 32 bits. -/
theorem memInit_default {i : Nat} (h : i < 1024) : memInit {} i = i := by
  have hmin : intMin 32 = -2147483648 := by decide
  have hmax : intMax 32 = 2147483647 := by decide
  exact wrap_eq_self (xlen := 32) (z := i) (by decide) ⟨by omega, by omega⟩

/-- Settles O6, from the readings of the reset tables. -/
theorem resetValues : Obligations.ResetValues := by
  refine ⟨fun s => ⟨s.hardReset, rfl, rfl, rfl, rfl, fun x => ⟨reg_resetWith x, rename_resetWith x⟩,
    fun i => read_resetWith s.prog i, fun g => ?_, station_resetWith, List.length_replicate, entry_resetWith,
    rfl, rfl, rfl, rfl, rfl, rfl, rfl, List.length_replicate, stampOf_resetWith⟩,
    fun x => reg_resetWith x, fun i hi => memInit_default hi, rfl, rfl⟩
  rw [State.hardReset, group_resetWith]
  exact List.length_replicate

end Sys2Proof.Machine
end

section
/-! PROOF. What the pipeline invariant says of the rename table (R46) and of the sizes of tracker, queue and ROB
(R55). -/

namespace Sys2Proof.Machine

variable {s : State}

/-- Two busy rows with one producer are one row: the producer has one destination. -/
theorem RenameIsYoungest.row_unique (h : RenameIsYoungest s) {r r' : RegIdx} (hr : (s.rename r).busy = true)
    (hr' : (s.rename r').busy = true) (heq : (s.rename r).robIndex = (s.rename r').robIndex) : r = r' := by
  obtain ⟨p, -, hp, -, hd⟩ := h.producer r hr
  obtain ⟨p', -, hp', -, hd'⟩ := h.producer r' hr'
  obtain rfl : p = p' := Option.some.inj (hp.symm.trans (heq.trans hp'))
  exact Option.some.inj (hd.symm.trans hd')

/-- A row that names an entry names one with a destination. -/
theorem RenameIsYoungest.dest_of_named (h : RenameIsYoungest s) {r : RegIdx} {p : Nat}
    (hp : (s.rename r).robIndex = some p) : (s.entry p).destinationRegister = some r := by
  cases hbusy : (s.rename r).busy
  · simp [h.idle r hbusy] at hp
  · obtain ⟨p', -, hp', -, hd⟩ := h.producer r hbusy
    obtain rfl : p' = p := Option.some.inj (hp'.symm.trans hp)
    exact hd

/-- Settles O41. -/
theorem atMostOneRenamePerProducer : Obligations.AtMostOneRenamePerProducer := by
  refine fun s h => ⟨fun r r' => h.rename.row_unique, fun r p hk hp => ?_⟩
  have hd := h.rename.dest_of_named hp
  simp [h.store_has_no_destination hk] at hd

/-! The stations behind the tracker and the queue -/

/-- The station that writes into entry `b`, if there is one (R156). -/
def State.stationOf (s : State) (b : Nat) : StationId := (s.locateStation b).getD ⟨.add, 0⟩

/-- A queue element has a busy station, which is in no tracker record. -/
theorem PipelineInvariant.stationOf_queued (h : PipelineInvariant s) {b : Nat} (hb : b ∈ s.cdbq) :
    s.stationOf b ∈ s.cfg.stationOrder ∧ (s.station (s.stationOf b)).busy = true ∧
      (s.station (s.stationOf b)).destRob = some b ∧ s.stationOf b ∉ s.fu.map FuRecord.rs := by
  obtain ⟨hlt, hst, hstation⟩ := h.tracked.queued b hb
  obtain ⟨id, hid, hprod⟩ := h.stations.stationOf b hlt (.inr hst)
  have hfound : (s.locateStation b).isSome = true := List.find?_isSome.mpr ⟨id, hid, hprod⟩
  obtain ⟨id', hloc⟩ := Option.isSome_iff_exists.mp hfound
  obtain ⟨hid', hbusy, hdest⟩ := locateStation_spec hloc
  rw [State.stationOf, hloc]
  exact ⟨hid', hbusy, hdest, (hstation id' hid' (producesInto_iff.mpr ⟨hbusy, hdest⟩)).2⟩

/-- The stations of the tracker records and of the queue elements. -/
def State.executingStations (s : State) : List StationId := s.fu.map FuRecord.rs ++ s.cdbq.map s.stationOf

theorem PipelineInvariant.executingStations_nodup (h : PipelineInvariant s) : s.executingStations.Nodup := by
  have hqueue : (s.cdbq.map s.stationOf).Nodup := by
    refine h.tracked.queueDistinct.map_on fun b hb b' hb' heq => ?_
    obtain ⟨-, -, hdest, -⟩ := h.stationOf_queued hb
    obtain ⟨-, -, hdest', -⟩ := h.stationOf_queued hb'
    exact Option.some.inj (hdest.symm.trans (heq ▸ hdest'))
  refine h.tracked.recordsDistinct.append hqueue fun id hrecord hmem => ?_
  obtain ⟨b, hb, rfl⟩ := List.mem_map.mp hmem
  obtain ⟨-, -, -, hnot⟩ := h.stationOf_queued hb
  exact hnot hrecord

theorem PipelineInvariant.executingStations_busy (h : PipelineInvariant s) :
    ∀ id ∈ s.executingStations, id ∈ s.cfg.stationOrder ∧ (s.station id).busy = true := by
  intro id hid
  obtain hrecord | hqueued := List.mem_append.mp hid
  · obtain ⟨f, hf, rfl⟩ := List.mem_map.mp hrecord
    obtain ⟨⟨hmem, hbusy, -⟩, -⟩ := h.tracked.record f hf
    exact ⟨hmem, hbusy⟩
  · obtain ⟨b, hb, rfl⟩ := List.mem_map.mp hqueued
    obtain ⟨hmem, hbusy, -⟩ := h.stationOf_queued hb
    exact ⟨hmem, hbusy⟩

/-- Different stations of one machine are at most `N_RS`. -/
theorem PipelineInvariant.executing_le (h : PipelineInvariant s) :
    s.fu.length + s.cdbq.length ≤ s.cfg.stationCount := by
  have hsub : s.executingStations.length ≤ s.cfg.stationOrder.length :=
    (h.executingStations_nodup.subperm fun id hid => (h.executingStations_busy id hid).1).length_le
  simpa [State.executingStations, length_stationOrder] using hsub

/-! The busy entries -/

theorem length_filter_range_lt {m n : Nat} (h : m ≤ n) :
    ((List.range n).filter fun j => decide (j < m)).length = m := by
  obtain ⟨d, rfl⟩ := Nat.exists_eq_add_of_le h
  rw [List.range_add, List.filter_append, List.filter_eq_self.mpr (by simp), List.filter_eq_nil_iff.mpr (by simp)]
  simp

/-- The ROB, read from the head on. -/
theorem rob_rotate (h : Shape s) :
    s.rob.rotate s.head = (List.range s.cfg.robSize).map fun j => s.entry (s.slot j) := by
  refine List.ext_getElem (by simp [h.robLength]) fun j hj _ => ?_
  have hslot : s.slot j < s.rob.length := h.robLength ▸ slot_lt h j
  rw [List.getElem_map, List.getElem_range, State.entry, List.getD_eq_getElem _ _ hslot, List.getElem_rotate]
  simp only [State.slot, h.robLength, Nat.add_comm]

theorem PipelineInvariant.busy_slot_iff (h : PipelineInvariant s) {j : Nat} (hj : j < s.cfg.robSize) :
    (s.entry (s.slot j)).busy = true ↔ j < s.inFlight := by
  constructor
  · intro hbusy
    by_contra hge
    simp [h.queue.free j hj (Nat.le_of_not_lt hge)] at hbusy
  · exact fun hlt => (h.queue.live j hlt).1

/-- The busy entries are those of the instructions in flight (R50). -/
theorem PipelineInvariant.busy_count (h : PipelineInvariant s) : (s.rob.filter RobEntry.busy).length = s.inFlight := by
  have hcount : (s.rob.filter RobEntry.busy).length =
      ((List.range s.cfg.robSize).filter fun j => decide (j < s.inFlight)).length := by
    rw [← ((s.rob.rotate_perm s.head).filter _).length_eq, rob_rotate h.shape, List.filter_map, List.length_map]
    refine congrArg List.length (List.filter_congr fun j hj => ?_)
    exact Bool.eq_iff_iff.mpr (by simpa using h.busy_slot_iff (List.mem_range.mp hj))
  rw [hcount, length_filter_range_lt (inFlight_le s)]

/-- Settles O43: the stations are those that the records name and those that Write-Result would locate for the queue
elements. -/
theorem trackerAndQueueFitStations : Obligations.TrackerAndQueueFitStations := by
  intro s h
  refine ⟨⟨s.cdbq.map s.stationOf, ?_, h.executingStations_nodup, h.executingStations_busy⟩, h.executing_le, ?_,
    h.busy_count⟩
  · rw [List.map_map]
    refine List.map_congr_left fun b hb => ?_
    obtain ⟨-, -, hdest, -⟩ := h.stationOf_queued hb
    exact hdest
  · exact h.busy_count.trans_le (inFlight_le s)

end Sys2Proof.Machine
end

section
/-! PROOF. The program store, the configuration and `pc` (R23, R44): only Issue moves `pc`, and no phase writes the
others. -/

namespace Sys2Proof.Machine

/-- `t` has the configuration, the program, `pc`, the tail and the cycle counter of `s`. -/
structure State.FrontKept (s t : State) : Prop where
  cfg : t.cfg = s.cfg
  prog : t.prog = s.prog
  pc : t.pc = s.pc
  tail : t.tail = s.tail
  cycle : t.cycle = s.cycle

variable {s t u : State}

theorem State.FrontKept.refl (s : State) : s.FrontKept s := ⟨rfl, rfl, rfl, rfl, rfl⟩

theorem State.FrontKept.trans (h : s.FrontKept t) (h' : t.FrontKept u) : s.FrontKept u :=
  ⟨h'.cfg.trans h.cfg, h'.prog.trans h.prog, h'.pc.trans h.pc, h'.tail.trans h.tail, h'.cycle.trans h.cycle⟩

/-! The phases other than Issue -/

theorem commit_frontKept (h : commit s = .next t) : s.FrontKept t := by
  obtain ⟨-, rfl⟩ | ⟨-, i, -, ⟨-, rfl⟩ | ⟨-, -, r, -, rfl⟩⟩ := commit_cases h
  · exact .refl _
  · exact ⟨rfl, rfl, rfl, rfl, rfl⟩
  · rw [State.commitRegister, unrename_eq]
    exact ⟨rfl, rfl, rfl, rfl, rfl⟩

theorem broadcast_frontKept (s : State) (b : Nat) (result : Int) : s.FrontKept (s.broadcast b result) := by
  unfold State.broadcast
  split <;> exact ⟨rfl, rfl, rfl, rfl, rfl⟩

theorem writeResult_frontKept (h : writeResult s = .next t) : s.FrontKept t := by
  obtain ⟨-, rfl⟩ | ⟨b, rest, id, k, i, -, -, -, -, rfl⟩ := writeResult_cases h
  · exact .refl _
  · exact { broadcast_frontKept _ b _ with }

theorem executeStart_frontKept (h : executeStart s = .next t) : s.FrontKept t := by
  refine forEach_keeps (P := s.FrontKept) (fun id _ u v hu hv => ?_) (.refl s) h
  obtain ⟨-, rfl⟩ | ⟨-, b, k, i, -, -, -, rfl⟩ := dispatchStation_cases hv
  · exact hu
  · exact { hu with }

theorem executeAdvance_frontKept (h : executeAdvance s = .next t) : s.FrontKept t := by
  obtain ⟨cdbq, stamp, rfl⟩ := forEach_complete_frame h
  exact ⟨rfl, rfl, rfl, rfl, rfl⟩

/-! Issue -/

/-- What every Issue keeps, whatever the state. -/
structure State.StoreKept (s t : State) : Prop where
  prog : t.prog = s.prog
  cfg : t.cfg = s.cfg

theorem State.FrontKept.storeKept (h : s.FrontKept t) : s.StoreKept t := ⟨h.prog, h.cfg⟩

theorem State.StoreKept.trans (h : s.StoreKept t) (h' : t.StoreKept u) : s.StoreKept u :=
  ⟨h'.prog.trans h.prog, h'.cfg.trans h.cfg⟩

theorem beginIssue_storeKept {k : Kind} {dest : Option RegIdx} {id : StationId}
    (h : beginIssue k dest s = some (id, t)) : s.StoreKept t := by
  obtain ⟨-, -, -, rfl⟩ := beginIssue_cases h
  exact ⟨rfl, rfl⟩

theorem storeDataAtIssue_storeKept (s : State) (b : Nat) (q : Station) : s.StoreKept (s.storeDataAtIssue b q) := by
  unfold State.storeDataAtIssue
  split <;> exact ⟨rfl, rfl⟩

theorem issueArith_storeKept {k : Kind} {rd rs1 rs2 : RegIdx} (h : issueArith k rd rs1 rs2 s = .next t) :
    s.StoreKept t := by
  obtain ⟨-, rfl⟩ | ⟨id, s1, o1, o2, hb, -, -, rfl⟩ := issueArith_cases h
  · exact ⟨rfl, rfl⟩
  · exact { beginIssue_storeKept hb with }

theorem exec_storeKept {i : Instr} (h : exec i s = .next t) : s.StoreKept t := by
  cases i with
  | add rd rs1 rs2 => exact issueArith_storeKept h
  | sub rd rs1 rs2 => exact issueArith_storeKept h
  | mul rd rs1 rs2 => exact issueArith_storeKept h
  | div rd rs1 rs2 => exact issueArith_storeKept h
  | load rd offset base =>
    obtain ⟨-, rfl⟩ | ⟨id, s1, o, hb, -, rfl⟩ := issueLoad_cases h
    · exact ⟨rfl, rfl⟩
    · exact { beginIssue_storeKept hb with }
  | store rsrc offset base =>
    obtain ⟨-, rfl⟩ | ⟨id, s1, od, ob, hb, -, -, rfl⟩ := issueStore_cases h
    · exact ⟨rfl, rfl⟩
    · have hset : s1.StoreKept (s1.setStation id ((s1.station id).wireStore od (offsetValue s.cfg offset) ob)) :=
        ⟨rfl, rfl⟩
      exact { ((beginIssue_storeKept hb).trans hset).trans (storeDataAtIssue_storeKept _ _ _) with }

theorem issuePhase_storeKept (h : issuePhase s = .next t) : s.StoreKept t := by
  obtain ⟨-, rfl⟩ | ⟨w, i, -, -, he⟩ | ⟨w, why, -, -, rfl⟩ := issuePhase_cases h
  · exact ⟨rfl, rfl⟩
  · exact exec_storeKept he
  · exact ⟨rfl, rfl⟩

/-- Settles O27, phase by phase. -/
theorem stepKeepsProgramAndConfiguration : Obligations.StepKeepsProgramAndConfiguration := by
  intro s t h
  obtain ⟨s1, s2, s3, s4, s5, hcommit, hwrite, hissue, hstart, hadvance, rfl⟩ := runCycle_cases h
  have hbefore := (commit_frontKept hcommit).trans (writeResult_frontKept hwrite)
  have hafter := (executeStart_frontKept hstart).trans (executeAdvance_frontKept hadvance)
  have hkept := (hbefore.storeKept.trans (issuePhase_storeKept hissue)).trans hafter.storeKept
  exact ⟨hkept.prog, hkept.cfg⟩

/-! The move of `pc` -/

/-- `t` has the issue stamps and the entries' instruction indices of `s`. -/
structure State.IssuedKept (s t : State) : Prop where
  stamp : ∀ n, (t.stampOf n).issue = (s.stampOf n).issue
  index : ∀ p, (t.entry p).instructionIndex = (s.entry p).instructionIndex

theorem State.IssuedKept.trans (h : s.IssuedKept t) (h' : t.IssuedKept u) : s.IssuedKept u :=
  ⟨fun n => (h'.stamp n).trans (h.stamp n), fun p => (h'.index p).trans (h.index p)⟩

theorem setEntry_issuedKept {b : Nat} {e : RobEntry} (he : e.instructionIndex = (s.entry b).instructionIndex) :
    s.IssuedKept (s.setEntry b e) := by
  refine ⟨fun _ => rfl, fun p => ?_⟩
  rcases Nat.lt_or_ge b s.rob.length with hlt | hge
  · rw [entry_setEntry e hlt]
    split
    · next heq => rw [he, heq]
    · rfl
  · rw [entry_of_rob (List.set_eq_of_length_le hge)]

theorem setStamp_issuedKept {i : Nat} {f : Stamps → Stamps} (hf : ∀ x, (f x).issue = x.issue) :
    s.IssuedKept (s.setStamp i f) := by
  refine ⟨fun n => ?_, fun _ => rfl⟩
  rcases Nat.lt_or_ge i s.stamp.length with hlt | hge
  · rw [stampOf_setStamp f hlt]
    split
    · next heq => rw [hf, heq]
    · rfl
  · rw [State.stampOf, setStamp_stamp, List.set_eq_of_length_le hge]
    rfl

theorem dispatched_index (e : RobEntry) (k : Kind) (q : Station) :
    (e.dispatched k q).instructionIndex = e.instructionIndex := by
  unfold RobEntry.dispatched
  split <;> rfl

theorem executeStart_issuedKept (h : executeStart s = .next t) : s.IssuedKept t := by
  refine forEach_keeps (P := s.IssuedKept) (fun id _ u v hu hv => ?_) ⟨fun _ => rfl, fun _ => rfl⟩ h
  obtain ⟨-, rfl⟩ | ⟨-, b, k, i, -, -, -, rfl⟩ := dispatchStation_cases hv
  · exact hu
  · exact hu.trans { setEntry_issuedKept (s := u.setFu _) (dispatched_index _ k _) with }

theorem executeAdvance_issuedKept (h : executeAdvance s = .next t) : s.IssuedKept t := by
  have h : forEach completeRecord _ (s.setFu _) = .next t := h
  refine forEach_keeps (P := s.IssuedKept) (fun f _ u v hu hv => ?_) ?_ h
  · obtain ⟨b, -, rfl⟩ := completeRecord_cases hv
    have hstamp := setStamp_issuedKept (s := u) (i := f.instructionIndex)
      (f := fun x => { x with executionComplete := some u.cycle }) fun _ => rfl
    exact hu.trans { hstamp with }
  · exact ⟨fun _ => rfl, fun _ => rfl⟩

/-- What an Issue that moves `pc` leaves (R122, R123, R131). -/
structure State.Advanced (s t : State) : Prop where
  pc : t.pc = s.pc + 1
  stamp : (t.stampOf s.pc).issue = some s.cycle
  entry : (t.entry s.tail).instructionIndex = some s.pc
  tail : t.tail = (s.tail + 1) % s.cfg.robSize

theorem Issues.advanced {k : Kind} {dest : Option RegIdx} {id : StationId} {q : Station} {e : RobEntry}
    (h : Issues s k dest id q e) : s.Advanced (s.afterIssue dest id q e) where
  pc := rfl
  stamp := by rw [h.stampOf_after, if_pos rfl]
  entry := by
    rw [h.entry_after, if_pos rfl]
    exact h.live.index
  tail := rfl

/-- The Issue phase leaves `pc`, or issues the instruction at `pc`. -/
theorem issuePhase_advanced (h : MidCycle s) (hi : issuePhase s = .next t) :
    t.pc = s.pc ∨ (∃ w i, s.prog[s.pc]? = some w ∧ decode s.cfg.offw w = .instr i) ∧ s.Advanced t := by
  obtain ⟨-, rfl⟩ | ⟨w, i, hw, hd, he⟩ | ⟨w, why, -, -, rfl⟩ := issuePhase_cases hi
  · exact .inl rfl
  · obtain rfl | ⟨id, q, e, hissues, rfl⟩ := exec_issues h he
    · exact .inl rfl
    · exact .inr ⟨⟨w, i, hw, hd⟩, hissues.advanced⟩
  · exact .inl rfl

/-- Settles O28: only the Issue phase moves `pc`, and no other phase touches what it leaves. -/
theorem pcMovesOnlyByIssue : Obligations.PcMovesOnlyByIssue := by
  intro s t h ht
  obtain ⟨s1, s2, s3, s4, s5, hcommit, hwrite, hissue, hstart, hadvance, rfl⟩ := runCycle_cases ht
  have h0 : PipelineInvariant s.clearEvents := h.withArch
  have h2 : MidCycle s2 := writeResult_midCycle (commit_midCycle h0 hcommit) (commit_completedBefore h0 hcommit) hwrite
  obtain ⟨hcfg, hprog, hpc, htail, hcycle⟩ := (commit_frontKept hcommit).trans (writeResult_frontKept hwrite)
  simp only [clearEvents_cfg, clearEvents_prog, clearEvents_pc, clearEvents_tail, clearEvents_cycle]
    at hcfg hprog hpc htail hcycle
  have hafter := (executeStart_frontKept hstart).trans (executeAdvance_frontKept hadvance)
  have hissued := (executeStart_issuedKept hstart).trans (executeAdvance_issuedKept hadvance)
  obtain hstay | ⟨hinstr, hadv⟩ := issuePhase_advanced h2 hissue
  · exact .inl (hafter.pc.trans (hstay.trans hpc))
  · rw [hprog, hpc, hcfg] at hinstr
    have hadvpc := hadv.pc
    have hstamp := (hissued.stamp s2.pc).trans hadv.stamp
    have hentry := (hissued.index s2.tail).trans hadv.entry
    have hadvtail := hafter.tail.trans hadv.tail
    rw [hpc, hcycle] at hstamp
    rw [htail, hpc] at hentry
    rw [htail, hcfg] at hadvtail
    exact .inr ⟨hafter.pc.trans (hadvpc.trans (by rw [hpc])), hinstr, hstamp, hentry, hadvtail⟩

end Sys2Proof.Machine
end

section
/-! PROOF. Every data value stays representable in `XLEN` bits (R20, R27, R30, R33, R195): one rule per state operation,
then the phases. -/

namespace Sys2Proof.Machine

/-- The data fields of an entry lie in the range. -/
def RobEntry.Fits (xlen : Nat) (e : RobEntry) : Prop := InRange xlen e.value ∧ InRange xlen e.address

/-- The data fields of a station lie in the range. -/
def Station.Fits (xlen : Nat) (q : Station) : Prop :=
  InRange xlen q.vj ∧ InRange xlen q.vk ∧ InRange xlen q.a

variable {s t : State} {xlen : Nat}

theorem inRange_zero (xlen : Nat) : InRange xlen 0 := by
  have : 0 < 2 ^ (xlen - 1) := Nat.two_pow_pos _
  unfold InRange intMin intMax
  omega

theorem fits_emptyEntry (xlen : Nat) : RobEntry.Fits xlen {} := ⟨inRange_zero xlen, inRange_zero xlen⟩

theorem fits_freeStation (xlen : Nat) : Station.Fits xlen {} :=
  ⟨inRange_zero xlen, inRange_zero xlen, inRange_zero xlen⟩

theorem forall_mem_iff_forall_getD {α : Type} {P : α → Prop} {l : List α} {d : α} (hd : P d) :
    (∀ x ∈ l, P x) ↔ ∀ n, P (l.getD n d) := by
  constructor
  · intro h n
    rw [List.getD_eq_getElem?_getD]
    cases hn : l[n]? with
    | none => exact hd
    | some x => exact h x (List.mem_of_getElem? hn)
  · intro h x hx
    obtain ⟨n, hn, rfl⟩ := List.mem_iff_getElem.mp hx
    simpa [hn] using h n

theorem DataInRange.entry (h : DataInRange s) (p : Nat) : (s.entry p).Fits s.cfg.xlen :=
  (forall_mem_iff_forall_getD (fits_emptyEntry _)).mp h.entries p

theorem DataInRange.station (h : DataInRange s) (id : StationId) : (s.station id).Fits s.cfg.xlen :=
  (forall_mem_iff_forall_getD (fits_freeStation _)).mp (fun q hq => h.stations q (mem_toList.mpr ⟨_, hq⟩)) id.index

/-! The state operations -/

theorem DataInRange.setEntry (h : DataInRange s) {e : RobEntry} (he : e.Fits s.cfg.xlen) (p : Nat) :
    DataInRange (s.setEntry p e) :=
  { h with
    entries := fun e' he' => by
      obtain hold | rfl := List.mem_or_eq_of_mem_set he'
      · exact h.entries e' hold
      · exact he }

theorem mem_toList_set {pool : StationPool} {id : StationId} {q q' : Station} (h : q' ∈ (pool.set id q).toList) :
    q' ∈ pool.toList ∨ q' = q := by
  obtain ⟨g, hg⟩ := mem_toList.mp h
  rw [group_set] at hg
  have hgroup : q' ∈ pool.group g ∨ q' = q := by
    split at hg
    · exact List.mem_or_eq_of_mem_set hg
    · exact .inl hg
  exact hgroup.imp_left fun hq => mem_toList.mpr ⟨g, hq⟩

theorem DataInRange.setStation (h : DataInRange s) {q : Station} (hq : q.Fits s.cfg.xlen) (id : StationId) :
    DataInRange (s.setStation id q) :=
  { h with
    stations := fun q' hq' => by
      obtain hold | rfl := mem_toList_set hq'
      · exact h.stations q' hold
      · exact hq }

theorem DataInRange.setReg (h : DataInRange s) {v : Int} (hv : InRange s.cfg.xlen v) (r : RegIdx) :
    DataInRange (s.setReg r v) :=
  { h with
    regs := fun r' => by
      by_cases heq : r' = r
      · rw [heq, reg_setReg_same]
        exact hv
      · rw [reg_setReg_other s v heq]
        exact h.regs r' }

theorem mem_write {c : Config} {m : Memory} {a : Nat} {v : Int} {x : Nat × Int} (hx : x ∈ Memory.write c m a v) :
    x ∈ m ∨ x = (a, v) := by
  induction m with
  | nil =>
    unfold Memory.write at hx
    split at hx <;> simp_all
  | cons y rest ih =>
    unfold Memory.write at hx
    grind

theorem DataInRange.memWrite (h : DataInRange s) {v : Int} (hv : InRange s.cfg.xlen v) (address : Int) :
    DataInRange (s.setMem (memWrite s.cfg s.mem address v)) :=
  { h with
    mem := fun x hx => by
      change x ∈ Machine.memWrite s.cfg s.mem address v at hx
      unfold Machine.memWrite at hx
      split at hx
      · obtain hold | rfl := mem_write hx
        · exact h.mem x hold
        · exact hv
      · exact h.mem x hx }

theorem read_inRange {c : Config} (hx : 1 ≤ c.xlen) {m : Memory} (hm : ∀ x ∈ m, InRange c.xlen x.2) (a : Nat) :
    InRange c.xlen (Memory.read c m a) := by
  induction m with
  | nil => exact inRange_wrap hx
  | cons y rest ih =>
    obtain ⟨hy, hrest⟩ := List.forall_mem_cons.mp hm
    unfold Memory.read
    split
    · exact hy
    · exact ih hrest

theorem memRead_inRange {c : Config} (hx : 1 ≤ c.xlen) {m : Memory} (hm : ∀ x ∈ m, InRange c.xlen x.2)
    (address : Int) : InRange c.xlen (memRead c m address) := by
  unfold memRead
  split
  · exact read_inRange hx hm _
  · exact inRange_zero _

/-! Commit -/

theorem commit_dataInRange (h : DataInRange s) (hc : commit s = .next t) : DataInRange t := by
  obtain ⟨-, rfl⟩ | ⟨-, i, -, ⟨-, rfl⟩ | ⟨-, -, r, -, rfl⟩⟩ := commit_cases hc
  · exact h
  · exact { (h.memWrite (h.entry s.head).1 _).setEntry (fits_emptyEntry _) s.head with }
  · rw [State.commitRegister, unrename_eq]
    exact { (h.setReg (h.entry s.head).1 r).setEntry (fits_emptyEntry _) s.head with }

/-! Write-Result -/

theorem divResult_inRange {c : Config} (hx : 1 ≤ c.xlen) (vj vk : Int) : InRange c.xlen (divResult c vj vk) := by
  unfold divResult
  split
  · exact inRange_zero _
  · exact inRange_wrap hx

/-- Each result is wrapped, read from the memory, or the operand itself (R158). -/
theorem compute_inRange (hx : 1 ≤ s.cfg.xlen) (h : DataInRange s) {q : Station} (hq : q.Fits s.cfg.xlen) (k : Kind)
    (i : Nat) : InRange s.cfg.xlen (compute s.cfg s.mem k q i).result ∧
      ∀ a ∈ (compute s.cfg s.mem k q i).address, InRange s.cfg.xlen a := by
  have haddress : InRange s.cfg.xlen (effectiveAddress s.cfg q) := inRange_wrap hx
  cases k with
  | add => exact ⟨inRange_wrap hx, nofun⟩
  | sub => exact ⟨inRange_wrap hx, nofun⟩
  | mul => exact ⟨inRange_wrap hx, nofun⟩
  | div => exact ⟨divResult_inRange hx _ _, nofun⟩
  | load => exact ⟨memRead_inRange hx h.mem _, fun a ha => Option.some.inj ha ▸ haddress⟩
  | store => exact ⟨hq.1, fun a ha => Option.some.inj ha ▸ haddress⟩

theorem RobEntry.Fits.wrote {e : RobEntry} (he : e.Fits xlen) {c : Computed} (hr : InRange xlen c.result)
    (ha : ∀ a ∈ c.address, InRange xlen a) : (e.wrote c).Fits xlen := by
  refine ⟨hr, ?_⟩
  cases haddr : c.address with
  | none => simpa [RobEntry.wrote, haddr] using he.2
  | some a => simpa [RobEntry.wrote, haddr] using ha a haddr

theorem Station.Fits.receive {q : Station} (hq : q.Fits xlen) {result : Int} (hr : InRange xlen result) (b : Nat) :
    (q.receive b result).Fits xlen := by
  obtain ⟨hj, hk, ha⟩ := hq
  cases hbusy : q.busy
  · rw [receive_of_free _ hbusy]
    exact ⟨hj, hk, ha⟩
  · rw [Station.Fits, receive_vj _ hbusy, receive_vk _ hbusy, receive_a]
    exact ⟨by split <;> assumption, by split <;> assumption, ha⟩

theorem DataInRange.broadcast (h : DataInRange s) {result : Int} (hr : InRange s.cfg.xlen result) (b : Nat) :
    DataInRange (s.broadcast b result) := by
  unfold State.broadcast
  split
  · exact
      { h with
        stations := fun q hq => by
          obtain ⟨g, hg⟩ := mem_toList.mp hq
          rw [group_map] at hg
          obtain ⟨q', hq', rfl⟩ := List.mem_map.mp hg
          exact Station.Fits.receive (h.stations q' (mem_toList.mpr ⟨g, hq'⟩)) hr b
        entries := (forall_mem_iff_forall_getD (P := RobEntry.Fits s.cfg.xlen) (fits_emptyEntry _)).mpr fun p => by
          rw [getD_foldl_mirrorInto]
          split
          · exact ⟨hr, (h.entry p).2⟩
          · exact h.entry p }
  · exact h

theorem writeResult_dataInRange (hx : 1 ≤ s.cfg.xlen) (h : DataInRange s) (hw : writeResult s = .next t) :
    DataInRange t := by
  obtain ⟨-, rfl⟩ | ⟨b, rest, id, k, i, -, -, -, -, rfl⟩ := writeResult_cases hw
  · exact h
  · obtain ⟨hresult, haddress⟩ := compute_inRange hx h (h.station id) k i
    have hwrote := h.setEntry ((h.entry b).wrote hresult haddress) b
    have hraised : DataInRange ((((s.setCdbq rest).stampWriteResult i).raise
        (compute s.cfg s.mem k (s.station id) i).events).setEntry b _) := { hwrote with }
    exact (hraised.broadcast hresult b).setStation (fits_freeStation _) id

/-! Issue -/

theorem capture_inRange (h : DataInRange s) {r : RegIdx} {o : Operand} (ho : capture s r = some o) :
    InRange s.cfg.xlen o.v := by
  unfold capture at ho
  split at ho
  · split at ho
    · split at ho
      · cases ho
        exact (h.entry _).1
      · cases ho
        exact inRange_zero _
    · cases ho
  · cases ho
    exact h.regs r

theorem beginIssue_dataInRange {k : Kind} {dest : Option RegIdx} {id : StationId} (h : DataInRange s)
    (hb : beginIssue k dest s = some (id, t)) : DataInRange t := by
  obtain ⟨-, -, -, rfl⟩ := beginIssue_cases hb
  have hentry := h.setEntry (e := issuedEntry k dest s.pc) (fits_emptyEntry s.cfg.xlen) s.tail
  have hallocated : DataInRange (s.allocateEntry k dest) := { hentry with }
  exact hallocated.setStation (q := (s.station id).occupy k s.pc s.tail) (h.station id) id

/-- The offset is wrapped to the width, which the start of Issue keeps. -/
theorem offsetValue_inRange {k : Kind} {dest : Option RegIdx} {id : StationId} (hx : 1 ≤ s.cfg.xlen)
    (hb : beginIssue k dest s = some (id, t)) (offset : Int) : InRange t.cfg.xlen (offsetValue s.cfg offset) := by
  rw [(beginIssue_storeKept hb).cfg]
  exact inRange_wrap hx

theorem DataInRange.storeDataAtIssue (h : DataInRange s) {q : Station} (hq : q.Fits s.cfg.xlen) (b : Nat) :
    DataInRange (s.storeDataAtIssue b q) := by
  unfold State.storeDataAtIssue
  split
  · exact h.setEntry (e := { s.entry b with value := q.vj, valueReady := true }) ⟨hq.1, (h.entry b).2⟩ b
  · exact h

theorem issueArith_dataInRange {k : Kind} {rd rs1 rs2 : RegIdx} (h : DataInRange s)
    (hi : issueArith k rd rs1 rs2 s = .next t) : DataInRange t := by
  obtain ⟨-, rfl⟩ | ⟨id, s1, o1, o2, hb, h1, h2, rfl⟩ := issueArith_cases hi
  · exact h
  · have hs1 := beginIssue_dataInRange h hb
    have hq : ((s1.station id).wireArith o1 o2).Fits s1.cfg.xlen :=
      ⟨capture_inRange hs1 h1, capture_inRange hs1 h2, (hs1.station id).2.2⟩
    exact { hs1.setStation hq id with }

theorem exec_dataInRange {i : Instr} (hx : 1 ≤ s.cfg.xlen) (h : DataInRange s) (hi : exec i s = .next t) :
    DataInRange t := by
  cases i with
  | add rd rs1 rs2 => exact issueArith_dataInRange h hi
  | sub rd rs1 rs2 => exact issueArith_dataInRange h hi
  | mul rd rs1 rs2 => exact issueArith_dataInRange h hi
  | div rd rs1 rs2 => exact issueArith_dataInRange h hi
  | load rd offset base =>
    obtain ⟨-, rfl⟩ | ⟨id, s1, o, hb, ho, rfl⟩ := issueLoad_cases hi
    · exact h
    · have hs1 := beginIssue_dataInRange h hb
      have hq : ((s1.station id).wireLoad (offsetValue s.cfg offset) o).Fits s1.cfg.xlen :=
        ⟨(hs1.station id).1, capture_inRange hs1 ho, offsetValue_inRange hx hb offset⟩
      exact { hs1.setStation hq id with }
  | store rsrc offset base =>
    obtain ⟨-, rfl⟩ | ⟨id, s1, od, ob, hb, hd, ho, rfl⟩ := issueStore_cases hi
    · exact h
    · have hs1 := beginIssue_dataInRange h hb
      have hq : ((s1.station id).wireStore od (offsetValue s.cfg offset) ob).Fits s1.cfg.xlen :=
        ⟨capture_inRange hs1 hd, capture_inRange hs1 ho, offsetValue_inRange hx hb offset⟩
      exact { (hs1.setStation hq id).storeDataAtIssue hq s.tail with }

theorem issuePhase_dataInRange (hx : 1 ≤ s.cfg.xlen) (h : DataInRange s) (hi : issuePhase s = .next t) :
    DataInRange t := by
  obtain ⟨-, rfl⟩ | ⟨w, i, -, -, he⟩ | ⟨w, why, -, -, rfl⟩ := issuePhase_cases hi
  · exact h
  · exact exec_dataInRange hx h he
  · exact { h with }

/-! Execute -/

theorem RobEntry.Fits.dispatched {e : RobEntry} {q : Station} (he : e.Fits xlen) (hq : q.Fits xlen) (k : Kind) :
    (e.dispatched k q).Fits xlen := by
  unfold RobEntry.dispatched
  split
  · exact ⟨hq.1, he.2⟩
  · exact he

theorem executeStart_dataInRange (h : DataInRange s) (he : executeStart s = .next t) : DataInRange t := by
  refine forEach_keeps (P := DataInRange) (fun id _ u v hu hv => ?_) h he
  obtain ⟨-, rfl⟩ | ⟨-, b, k, i, -, -, -, rfl⟩ := dispatchStation_cases hv
  · exact hu
  · exact { hu.setEntry ((hu.entry b).dispatched (hu.station id) k) b with }

theorem executeAdvance_dataInRange (h : DataInRange s) (he : executeAdvance s = .next t) : DataInRange t := by
  obtain ⟨cdbq, stamp, rfl⟩ := forEach_complete_frame he
  exact { h with }

theorem resetWith_dataInRange {c : Config} {program : List InstrWord} (h : c.Legal) :
    DataInRange (State.resetWith c program) where
  regs r := by
    rw [reg_resetWith]
    exact legal_regInit_inRange h
  mem := nofun
  stations q hq := by
    obtain ⟨g, hg⟩ := mem_toList.mp hq
    rw [group_resetWith] at hg
    exact List.eq_of_mem_replicate hg ▸ fits_freeStation _
  entries e he := List.eq_of_mem_replicate he ▸ fits_emptyEntry _

/-- Settles O40: every phase keeps the range, and the width does not change on the way. -/
theorem stepKeepsDataInRange : Obligations.StepKeepsDataInRange := by
  refine ⟨fun c program h => resetWith_dataInRange h, fun s t hx h ht => ?_⟩
  obtain ⟨s1, s2, s3, s4, s5, hcommit, hwrite, hissue, hstart, hadvance, rfl⟩ := runCycle_cases ht
  have h0 : DataInRange s.clearEvents := { h with }
  have h1 := commit_dataInRange h0 hcommit
  have hx1 : 1 ≤ s1.cfg.xlen := (commit_frontKept hcommit).cfg ▸ hx
  have h2 := writeResult_dataInRange hx1 h1 hwrite
  have hx2 : 1 ≤ s2.cfg.xlen := (writeResult_frontKept hwrite).cfg ▸ hx1
  have h3 := issuePhase_dataInRange hx2 h2 hissue
  have h5 := executeAdvance_dataInRange (executeStart_dataInRange h3 hstart) hadvance
  exact { h5 with }

end Sys2Proof.Machine
end

section
/-! PROOF. Time is not read (R26, R38): every phase commutes with forgetting the cycle counter and the stamps. -/

namespace Sys2Proof.Machine

/-- `s` without its cycle counter and stamps. -/
def State.timeless (s : State) : State := { s with cycle := 0, stamp := [] }

/-- An outcome without the time of its state. -/
def untimed : Host.Outcome State Fault Refusal → Host.Outcome State Fault Refusal
  | .next s => .next s.timeless
  | .fault r => .fault r
  | .refused r => .refused r

/-- `f` reads no time: on a state without time it gives the same, up to time. -/
def IgnoresTime (f : State → Host.Outcome State Fault Refusal) : Prop :=
  ∀ s, untimed (f s.timeless) = untimed (f s)

variable {s t : State} {f g : State → Host.Outcome State Fault Refusal}

theorem untimed_eq_next {o : Host.Outcome State Fault Refusal} (h : untimed o = .next t) :
    ∃ u, o = .next u ∧ u.timeless = t := by
  cases o with
  | next u => exact ⟨u, rfl, Host.Outcome.next.inj h⟩
  | fault r => cases h
  | refused r => cases h

/-- Two states that differ in time only give outcomes that differ in time only. -/
theorem IgnoresTime.congr (hf : IgnoresTime f) (h : s.timeless = t.timeless) : untimed (f s) = untimed (f t) := by
  rw [← hf s, ← hf t, h]

theorem IgnoresTime.andThen (hf : IgnoresTime f) (hg : IgnoresTime g) :
    IgnoresTime fun s => Machine.andThen (f s) g := by
  intro s
  have h := hf s
  dsimp only
  cases hs : f s <;> rw [hs] at h
  case next u =>
    obtain ⟨v, hv, heq⟩ := untimed_eq_next h
    rw [hv]
    exact hg.congr heq
  case fault r =>
    cases hv : f s.timeless <;> simp_all [untimed, Machine.andThen]
  case refused r =>
    cases hv : f s.timeless <;> simp_all [untimed, Machine.andThen]

theorem ignoresTime_forEach {α : Type} {f : State → α → Host.Outcome State Fault Refusal}
    (hf : ∀ x, IgnoresTime (f · x)) (l : List α) : IgnoresTime (forEach f l) := by
  induction l with
  | nil => exact fun _ => rfl
  | cons x l ih => exact (hf x).andThen ih

/-! What does not read the time -/

@[simp] theorem timeless_entry (p : Nat) : s.timeless.entry p = s.entry p := rfl
@[simp] theorem timeless_station (id : StationId) : s.timeless.station id = s.station id := rfl
@[simp] theorem timeless_cfg : s.timeless.cfg = s.cfg := rfl
@[simp] theorem timeless_head : s.timeless.head = s.head := rfl

theorem ignoresTime_commit : IgnoresTime commit := by
  intro s
  have hready : s.timeless.commitReady = s.commitReady := rfl
  simp only [commit, hready, timeless_entry, timeless_head]
  split
  · split
    · rfl
    · simp only [State.commitRegister, unrename_eq]
      rfl
    · rfl
  · rfl

theorem timeless_broadcast (b : Nat) (result : Int) :
    (s.broadcast b result).timeless = s.timeless.broadcast b result := by
  unfold State.broadcast
  exact apply_ite State.timeless _ _ _

theorem ignoresTime_writeResult : IgnoresTime writeResult := by
  intro s
  have hlocate (b : Nat) (rest : List Nat) :
      (s.timeless.setCdbq rest).locateStation b = (s.setCdbq rest).locateStation b := rfl
  have hqueue : s.timeless.cdbq = s.cdbq := rfl
  simp only [writeResult, hqueue, hlocate, timeless_station]
  split
  · rfl
  · split
    · rfl
    · split
      · have hrelease (u v : State) (id : StationId) (h : u.timeless = v.timeless) :
            untimed (.next (u.releaseStation id)) = untimed (.next (v.releaseStation id)) :=
          congrArg (fun w : State => Host.Outcome.next (w.releaseStation id)) h
        refine hrelease _ _ _ ?_
        rw [timeless_broadcast, timeless_broadcast]
        rfl
      · rfl

theorem ignoresTime_dispatchStation (id : StationId) : IgnoresTime (dispatchStation · id) := by
  intro s
  have hready : s.timeless.dispatchable (s.station id) = s.dispatchable (s.station id) := rfl
  simp only [dispatchStation, timeless_station, hready]
  split
  · split <;> rfl
  · rfl

theorem ignoresTime_completeRecord (r : FuRecord) : IgnoresTime (completeRecord · r) := by
  intro s
  simp only [completeRecord, timeless_station]
  split <;> rfl

theorem ignoresTime_executeStart : IgnoresTime executeStart :=
  fun s => ignoresTime_forEach ignoresTime_dispatchStation s.cfg.scanOrder s

theorem ignoresTime_executeAdvance : IgnoresTime executeAdvance := by
  intro s
  exact ignoresTime_forEach ignoresTime_completeRecord _ (s.setFu _)

/-! Issue -/

/-- The start of Issue on a state without time is that on the state, without its time. -/
theorem beginIssue_timeless (k : Kind) (dest : Option RegIdx) (s : State) :
    beginIssue k dest s.timeless = (beginIssue k dest s).map (Prod.map id State.timeless) := by
  have hpick : s.timeless.pickStation (groupOf k) = s.pickStation (groupOf k) := rfl
  simp only [beginIssue, hpick]
  cases s.pickStation (groupOf k) with
  | none => rfl
  | some place =>
    have hmap := apply_ite (Option.map (Prod.map id State.timeless)) (s.pc < s.prog.length ∧ 0 < s.entriesAvailable)
      (some (place, (s.allocateEntry k dest).setStation place ((s.station place).occupy k s.pc s.tail))) none
    exact hmap.symm

theorem capture_timeless (s : State) (r : RegIdx) : capture s.timeless r = capture s r := rfl

theorem timeless_storeDataAtIssue (s : State) (b : Nat) (q : Station) :
    (s.storeDataAtIssue b q).timeless = s.timeless.storeDataAtIssue b q := by
  unfold State.storeDataAtIssue
  exact apply_ite State.timeless _ _ _

theorem ignoresTime_issueArith (k : Kind) (rd rs1 rs2 : RegIdx) : IgnoresTime (issueArith k rd rs1 rs2) := by
  intro s
  rw [issueArith, issueArith, beginIssue_timeless]
  cases beginIssue k (some rd) s with
  | none => rfl
  | some start =>
    simp only [Option.map_some, Prod.map, capture_timeless]
    split <;> rfl

theorem ignoresTime_issueLoad (rd : RegIdx) (offset : Int) (base : RegIdx) :
    IgnoresTime (issueLoad rd offset base) := by
  intro s
  rw [issueLoad, issueLoad, beginIssue_timeless]
  cases beginIssue .load (some rd) s with
  | none => rfl
  | some start =>
    simp only [Option.map_some, Prod.map, capture_timeless]
    split <;> rfl

theorem ignoresTime_issueStore (rsrc : RegIdx) (offset : Int) (base : RegIdx) :
    IgnoresTime (issueStore rsrc offset base) := by
  intro s
  rw [issueStore, issueStore, beginIssue_timeless]
  cases beginIssue .store none s with
  | none => rfl
  | some start =>
    simp only [Option.map_some, Prod.map, capture_timeless]
    split
    · have hissued (u v : State) (h : u.timeless = v.timeless) :
          untimed (.next (u.renameDest none s.tail).advancePc) = untimed (.next (v.renameDest none s.tail).advancePc) :=
        congrArg (fun w : State => Host.Outcome.next w.advancePc) h
      refine hissued _ _ ?_
      rw [timeless_storeDataAtIssue, timeless_storeDataAtIssue]
      rfl
    · rfl

theorem ignoresTime_exec (i : Instr) : IgnoresTime (exec i) := by
  cases i with
  | add rd rs1 rs2 => exact ignoresTime_issueArith .add rd rs1 rs2
  | sub rd rs1 rs2 => exact ignoresTime_issueArith .sub rd rs1 rs2
  | mul rd rs1 rs2 => exact ignoresTime_issueArith .mul rd rs1 rs2
  | div rd rs1 rs2 => exact ignoresTime_issueArith .div rd rs1 rs2
  | load rd offset base => exact ignoresTime_issueLoad rd offset base
  | store rsrc offset base => exact ignoresTime_issueStore rsrc offset base

theorem ignoresTime_issuePhase : IgnoresTime issuePhase := by
  intro s
  have hfetch : s.timeless.fetch = s.fetch := rfl
  simp only [issuePhase, hfetch, timeless_cfg]
  split
  · rfl
  · split
    · exact ignoresTime_exec _ s
    · rfl

/-! The cycle -/

theorem ignoresTime_runCycle : IgnoresTime runCycle := by
  have hphases := ignoresTime_commit.andThen <| ignoresTime_writeResult.andThen <| ignoresTime_issuePhase.andThen <|
    ignoresTime_executeStart.andThen <| ignoresTime_executeAdvance.andThen (g := fun s => .next s.tick) fun _ => rfl
  exact fun s => hphases s.clearEvents

/-- Settles O32: both steps are, up to time, the step from the state without time. -/
theorem timeIsNotRead : Obligations.TimeIsNotRead := by
  intro s t cycle stamp h
  have hsame : untimed (runCycle { s with cycle := cycle, stamp := stamp }) = untimed (runCycle s) :=
    ignoresTime_runCycle.congr rfl
  have ht : runCycle s = .next t := h
  rw [ht] at hsame
  exact untimed_eq_next hsame

end Sys2Proof.Machine
end

section
/-! PROOF. The data memory over a step (R65, R66, R69): Commit alone writes it, a LOAD reads it at Write-Result. -/

namespace Sys2Proof.Machine

/-- The memory as Commit leaves it: a STORE that commits writes its word, anything else leaves the memory alone (R178,
R180). -/
def State.committedMem (s : State) : Memory :=
  if s.commitReady = true ∧ (s.entry s.head).kind = some .store then
    memWrite s.cfg s.mem (s.entry s.head).address (s.entry s.head).value
  else s.mem

variable {s t : State}

theorem commit_mem (h : commit s = .next t) : t.mem = s.committedMem := by
  unfold State.committedMem
  obtain ⟨hwait, rfl⟩ | ⟨hready, i, -, ⟨hstore, rfl⟩ | ⟨hother, -, r, -, rfl⟩⟩ := commit_cases h
  · simp [hwait]
  · rw [if_pos ⟨hready, hstore⟩]
    rfl
  · rw [if_neg fun hcut => hother hcut.2, State.commitRegister, unrename_eq]
    rfl

theorem committedMem_wf (h : Memory.wf s.cfg s.mem = true) : Memory.wf s.cfg s.committedMem = true := by
  unfold State.committedMem
  split
  · exact memWrite_keeps_wf h
  · exact h

/-! The phases after Commit change neither registers nor memory (R185) -/

theorem broadcast_arch (s : State) (b : Nat) (result : Int) : (s.broadcast b result).arch = s.arch := by
  unfold State.broadcast
  split <;> rfl

theorem writeResult_arch (h : writeResult s = .next t) : t.arch = s.arch := by
  obtain ⟨-, rfl⟩ | ⟨b, rest, id, k, i, -, -, -, -, rfl⟩ := writeResult_cases h
  · rfl
  · exact broadcast_arch _ b _

theorem beginIssue_arch {k : Kind} {dest : Option RegIdx} {id : StationId}
    (h : beginIssue k dest s = some (id, t)) : t.arch = s.arch := by
  obtain ⟨-, -, -, rfl⟩ := beginIssue_cases h
  rfl

theorem storeDataAtIssue_arch (s : State) (b : Nat) (q : Station) : (s.storeDataAtIssue b q).arch = s.arch := by
  unfold State.storeDataAtIssue
  split <;> rfl

theorem issueArith_arch {k : Kind} {rd rs1 rs2 : RegIdx} (h : issueArith k rd rs1 rs2 s = .next t) :
    t.arch = s.arch := by
  obtain ⟨-, rfl⟩ | ⟨id, s1, o1, o2, hb, -, -, rfl⟩ := issueArith_cases h
  · rfl
  · exact (beginIssue_arch hb :)

theorem exec_arch {i : Instr} (h : exec i s = .next t) : t.arch = s.arch := by
  cases i with
  | add rd rs1 rs2 => exact issueArith_arch h
  | sub rd rs1 rs2 => exact issueArith_arch h
  | mul rd rs1 rs2 => exact issueArith_arch h
  | div rd rs1 rs2 => exact issueArith_arch h
  | load rd offset base =>
    obtain ⟨-, rfl⟩ | ⟨id, s1, o, hb, -, rfl⟩ := issueLoad_cases h
    · rfl
    · exact (beginIssue_arch hb :)
  | store rsrc offset base =>
    obtain ⟨-, rfl⟩ | ⟨id, s1, od, ob, hb, -, -, rfl⟩ := issueStore_cases h
    · rfl
    · exact (storeDataAtIssue_arch _ s.tail _).trans (beginIssue_arch hb :)

theorem issuePhase_arch (h : issuePhase s = .next t) : t.arch = s.arch := by
  obtain ⟨-, rfl⟩ | ⟨w, i, -, -, he⟩ | ⟨w, why, -, -, rfl⟩ := issuePhase_cases h
  · rfl
  · exact exec_arch he
  · rfl

theorem executeStart_arch (h : executeStart s = .next t) : t.arch = s.arch := by
  refine forEach_keeps (P := fun u => u.arch = s.arch) (fun id _ u v hu hv => ?_) rfl h
  obtain ⟨-, rfl⟩ | ⟨-, b, k, i, -, -, -, rfl⟩ := dispatchStation_cases hv
  · exact hu
  · exact hu

theorem executeAdvance_arch (h : executeAdvance s = .next t) : t.arch = s.arch := by
  obtain ⟨cdbq, stamp, rfl⟩ := forEach_complete_frame h
  rfl

/-- A step's memory is the one its Commit leaves. -/
theorem step_mem (h : step s = .next t) : t.mem = s.committedMem := by
  obtain ⟨s1, s2, s3, s4, s5, hcommit, hwrite, hissue, hstart, hadvance, rfl⟩ := runCycle_cases h
  have harch : s5.arch = s1.arch :=
    calc s5.arch
      _ = s4.arch := executeAdvance_arch hadvance
      _ = s3.arch := executeStart_arch hstart
      _ = s2.arch := issuePhase_arch hissue
      _ = s1.arch := writeResult_arch hwrite
  exact (congrArg ArchState.mem harch).trans (commit_mem hcommit :)

/-- Settles O39: a step's memory is the committed one, and a STORE's write keeps the form. -/
theorem stepKeepsCanonicalMemory : Obligations.StepKeepsCanonicalMemory := by
  refine ⟨fun c program => resetWith_mem_wf program, fun s t hm h => ?_⟩
  obtain ⟨-, hcfg⟩ := stepKeepsProgramAndConfiguration s t h
  rw [hcfg, step_mem h]
  exact committedMem_wf hm

end Sys2Proof.Machine
end

section
/-! PROOF. A LOAD at the front of the CDB queue reads the memory that the same cycle's Commit left (R69, R158). -/

namespace Sys2Proof.Machine

/-! Memory at a signed address (R65, R66) -/

section Memory

variable {c : Config} {m : Memory} {address : Int}

theorem addressValid_iff : addressValid c address = true ↔ 0 ≤ address ∧ address < (c.memSize : Int) := by
  simp [addressValid]

theorem memRead_of_valid (h : addressValid c address = true) : memRead c m address = Memory.read c m address.toNat :=
  if_pos h

theorem memRead_memWrite_same (hm : Memory.wf c m = true) (h : addressValid c address = true) (v : Int) :
    memRead c (memWrite c m address v) address = v := by
  rw [memRead_of_valid h, memWrite, if_pos h]
  exact read_write_same hm

theorem memRead_memWrite_other {other : Int} (hne : address ≠ other) (v : Int) :
    memRead c (memWrite c m other v) address = memRead c m address := by
  unfold memRead
  split
  · next hvalid =>
    obtain ⟨hpos, -⟩ := addressValid_iff.mp hvalid
    unfold memWrite
    split
    · next hother =>
      obtain ⟨hpos', -⟩ := addressValid_iff.mp hother
      exact read_write_other (by omega)
    · rfl
  · rfl

end Memory

variable {s t : State} {b i : Nat} {id : StationId} {rest : List Nat} {k : Kind}

/-! Commit -/

/-- Under the invariant Commit waits for nothing but the head's result (R175, R176). -/
theorem PipelineInvariant.commitReady_iff_written (h : PipelineInvariant s) :
    s.commitReady = true ↔ (s.entry s.head).state = .wroteResult := by
  rw [Machine.commitReady_iff]
  constructor
  · rintro ⟨-, -, hst, -⟩
    exact hst
  · intro hst
    have hne : s.entry s.head ≠ {} := fun hempty => by simp [hempty] at hst
    obtain ⟨j, hj, -, hlive⟩ := h.queue.place h.shape hne
    have hfly : 0 < s.inFlight := Nat.zero_lt_of_lt hj
    exact ⟨Nat.lt_of_sub_pos hfly, hlive.entryBusy, hst, fun _ => h.values.written _ h.shape.headRange hst⟩

/-- The head is a STORE to `address` that commits in this step (R180). -/
def State.CommitsStoreTo (s : State) (address : Int) : Prop :=
  (s.entry s.head).kind = some .store ∧ (s.entry s.head).state = .wroteResult ∧ (s.entry s.head).address = address

theorem PipelineInvariant.memRead_of_commitsStoreTo (h : PipelineInvariant s) (hm : Memory.wf s.cfg s.mem = true)
    {address : Int} (hvalid : addressValid s.cfg address = true) (hstore : s.CommitsStoreTo address) :
    memRead s.cfg s.committedMem address = (s.entry s.head).value := by
  obtain ⟨hkind, hwritten, rfl⟩ := hstore
  rw [State.committedMem, if_pos ⟨h.commitReady_iff_written.mpr hwritten, hkind⟩]
  exact memRead_memWrite_same hm hvalid _

theorem PipelineInvariant.memRead_of_not_commitsStoreTo (h : PipelineInvariant s) {address : Int}
    (hnot : ¬ s.CommitsStoreTo address) : memRead s.cfg s.committedMem address = memRead s.cfg s.mem address := by
  unfold State.committedMem
  split
  · next hcommits =>
    obtain ⟨hready, hkind⟩ := hcommits
    refine memRead_memWrite_other (fun heq => hnot ?_) _
    exact ⟨hkind, h.commitReady_iff_written.mp hready, heq.symm⟩
  · rfl

/-- Commit leaves the stations and the CDB queue alone. -/
theorem commit_keeps_execution (h : commit s = .next t) : t.rs = s.rs ∧ t.cdbq = s.cdbq := by
  obtain ⟨-, rfl⟩ | ⟨-, i, -, ⟨-, rfl⟩ | ⟨-, -, r, -, rfl⟩⟩ := commit_cases h
  · exact ⟨rfl, rfl⟩
  · exact ⟨rfl, rfl⟩
  · rw [State.commitRegister, unrename_eq]
    exact ⟨rfl, rfl⟩

/-- Commit frees a written entry only. -/
theorem commit_entry_of_not_written {p : Nat} (h : PipelineInvariant s) (hc : commit s = .next t)
    (hp : (s.entry p).state ≠ .wroteResult) : t.entry p = s.entry p := by
  obtain rfl | ⟨hready, i, status, regs, mem, events, -, -, rfl⟩ := commit_retires hc h.store_has_no_destination
  · rfl
  · refine retired_entry_of_ne (i := i) (status := status) ?_
    rintro rfl
    exact hp (h.commitReady_iff_written.mp hready)

/-! Write-Result -/

theorem StationsMatchEntries.busy_of_dest (h : StationsMatchEntries s) (hid : id ∈ s.cfg.stationOrder)
    (hdest : (s.station id).destRob = some b) : (s.station id).busy = true := by
  by_contra hfree
  have hclear := h.free id hid (Bool.not_eq_true _ ▸ hfree)
  simp [hclear] at hdest

/-- The entry that Write-Result takes from the queue holds what its station computes (R158, R159). -/
theorem Writes.entry_writeBack (h : Writes s b id i rest) (k : Kind) :
    ((s.setCdbq rest).writeBack b id k i).entry b = (s.entry b).wrote (compute s.cfg s.mem k (s.station id) i) := by
  have hguard : ((s.setEntry b ((s.entry b).wrote (compute s.cfg s.mem k (s.station id) i))).entry b).busy = true := by
    rw [entry_setEntry_same s _ (h.inv.shape.robLength ▸ h.b_lt)]
    exact h.entry_busy
  unfold State.writeBack State.broadcast
  exact (congrArg (fun u => (State.releaseStation u id).entry b) (if_pos hguard)).trans h.entry_self

theorem writeResult_entry_front (h : MidCycle s) (hw : writeResult s = .next t) (hq : s.cdbq = b :: rest)
    (hid : id ∈ s.cfg.stationOrder) (hdest : (s.station id).destRob = some b) (hop : (s.station id).op = some k) :
    (t.entry b).busy = true ∧
      ∃ i, t.entry b = (s.entry b).wrote (compute s.cfg s.mem k (s.station id) i) := by
  obtain ⟨hempty, -⟩ | ⟨b', rest', id', k', i, hq', hloc, hop', hi, rfl⟩ := writeResult_cases hw
  · simp [hq] at hempty
  · obtain ⟨rfl, rfl⟩ : b = b' ∧ rest = rest' := List.cons.inj (hq.symm.trans hq')
    obtain ⟨hid', hbusy', hdest'⟩ := locateStation_spec hloc
    have hbusy := h.stations.busy_of_dest hid hdest
    obtain rfl : id = id' := h.stations.unique id hid id' hid' hbusy hbusy' (hdest.trans hdest'.symm)
    obtain rfl : k = k' := Option.some.inj (hop.symm.trans hop')
    have hwrites : Writes s b id i rest := ⟨h, hq, hid, hbusy, hdest, hi⟩
    rw [hwrites.entry_writeBack]
    exact ⟨hwrites.entry_busy, i, rfl⟩

/-! The phases after Write-Result leave a written entry alone -/

theorem issuePhase_entry_of_busy {p : Nat} (h : MidCycle s) (hi : issuePhase s = .next t)
    (hbusy : (s.entry p).busy = true) : t.entry p = s.entry p := by
  obtain ⟨-, rfl⟩ | ⟨w, i, -, -, he⟩ | ⟨w, why, -, -, rfl⟩ := issuePhase_cases hi
  · rfl
  · obtain rfl | ⟨id, q, e, hissues, rfl⟩ := exec_issues h he
    · rfl
    · exact hissues.entry_of_ne (hissues.ne_tail_of_busy hbusy)
  · rfl

theorem dispatchStation_entry_of_not_issued {p : Nat} (h : dispatchStation s id = .next t)
    (hp : (s.entry p).state ≠ .issued) : t.entry p = s.entry p := by
  obtain ⟨-, rfl⟩ | ⟨hready, b, k, i, hb, -, -, rfl⟩ := dispatchStation_cases h
  · rfl
  · obtain ⟨-, -, -, b', hb', hissued⟩ := (dispatchable_iff s _).mp hready
    obtain rfl : b' = b := Option.some.inj (hb'.symm.trans hb)
    refine entry_setEntry_other _ _ ?_
    rintro rfl
    exact hp hissued

theorem executeStart_entry_of_not_issued {p : Nat} (h : executeStart s = .next t)
    (hp : (s.entry p).state ≠ .issued) : t.entry p = s.entry p := by
  refine forEach_keeps (P := fun u => u.entry p = s.entry p) (fun id _ u v hu hv => ?_) rfl h
  exact (dispatchStation_entry_of_not_issued hv (hu ▸ hp)).trans hu

theorem executeAdvance_entry (h : executeAdvance s = .next t) (p : Nat) : t.entry p = s.entry p := by
  obtain ⟨cdbq, stamp, rfl⟩ := forEach_complete_frame h
  rfl

/-! The step -/

/-- After a step the entry at the front of the CDB queue holds what its station computes, with the memory as the step's
Commit left it (R69, R158). -/
theorem step_entry_front (h : PipelineInvariant s) (ht : step s = .next t) (hq : s.cdbq = b :: rest)
    (hid : id ∈ s.cfg.stationOrder) (hdest : (s.station id).destRob = some b) (hop : (s.station id).op = some k) :
    ∃ i, t.entry b = (s.entry b).wrote (compute s.cfg s.committedMem k (s.station id) i) := by
  obtain ⟨s1, s2, s3, s4, s5, hcommit, hwrite, hissue, hstart, hadvance, rfl⟩ := runCycle_cases ht
  have h0 : PipelineInvariant s.clearEvents := h.withArch
  have h1 : MidCycle s1 := commit_midCycle h0 hcommit
  have h2 : MidCycle s2 := writeResult_midCycle h1 (commit_completedBefore h0 hcommit) hwrite
  obtain ⟨hrs, hq1⟩ := commit_keeps_execution hcommit
  have hcfg : s1.cfg = s.cfg := (commit_frontKept hcommit).cfg
  have hmem : s1.mem = s.committedMem := (commit_mem hcommit :)
  have hstation : s1.station id = s.station id := station_of_rs hrs id
  obtain ⟨hbusy, i, hentry⟩ := writeResult_entry_front h1 hwrite (hq1.trans hq) (hcfg ▸ hid) (hstation ▸ hdest)
    (hstation ▸ hop)
  have hqueued : (s.entry b).state = .executing := h.midCycle.tracked.queued_executing (hq ▸ List.mem_cons_self)
  have hpending : (s.entry b).state ≠ .wroteResult := by simp [hqueued]
  have hentry1 : s1.entry b = s.entry b := (commit_entry_of_not_written h0 hcommit hpending :)
  rw [hcfg, hmem, hstation, hentry1] at hentry
  have hissued : s3.entry b = s2.entry b := issuePhase_entry_of_busy h2 hissue hbusy
  have hwritten : (s3.entry b).state ≠ .issued := by simp [hissued, hentry, RobEntry.wrote]
  have hkept : s5.entry b = s2.entry b :=
    calc s5.entry b
      _ = s4.entry b := executeAdvance_entry hadvance b
      _ = s3.entry b := executeStart_entry_of_not_issued hstart hwritten
      _ = s2.entry b := hissued
  exact ⟨i, hkept.trans hentry⟩

/-- Settles O34: Write-Result reads the memory that Commit left, which differs from the old one in the word of a
committing STORE only. -/
theorem loadReadsCommittedMemory : Obligations.LoadReadsCommittedMemory := by
  intro s t b rest id h hm ht hq hid hdest hop ea head hlow hhigh
  have hvalid : addressValid s.cfg ea = true := addressValid_iff.mpr ⟨hlow, hhigh⟩
  obtain ⟨i, hentry⟩ := step_entry_front h ht hq hid hdest hop
  have hvalue : (t.entry b).value = memRead s.cfg s.committedMem ea := congrArg RobEntry.value hentry
  refine ⟨congrArg RobEntry.state hentry, congrArg RobEntry.address hentry, fun hstore => ?_, fun hnot => ?_⟩
  · rw [hvalue]
    exact h.memRead_of_commitsStoreTo hm hvalid hstore
  · rw [hvalue, h.memRead_of_not_commitsStoreTo hnot]
    exact memRead_of_valid hvalid

end Sys2Proof.Machine
end

section
/-! PROOF. The instruction word field by field (R83 to R87): what each field of an encoded word holds, and that the fields
of a format determine the word. -/

namespace Sys2Proof

variable {x y : InstrWord} {offw : Nat}

/-! A field at its place -/

theorem extractLsb'_placeField_same {n lo : Nat} (v : BitVec n) (h : lo + n ≤ 32) :
    (placeField lo v).extractLsb' lo n = v := by
  apply BitVec.eq_of_getLsbD_eq
  intro i hi
  have hword : lo + i < 32 := by omega
  simp [placeField, hi, hword]

theorem extractLsb'_placeField_disjoint {n lo start len : Nat} (v : BitVec n) (h : start + len ≤ lo ∨ lo + n ≤ start) :
    (placeField lo v).extractLsb' start len = 0#len := by
  apply BitVec.eq_of_getLsbD_eq
  intro i hi
  have hout : start + i < lo ∨ n ≤ start + i - lo := by omega
  obtain hbelow | habove := hout
  · simp [placeField, hbelow]
  · simp [placeField, BitVec.getLsbD_of_ge v _ habove]

@[simp] theorem toFin_ofNat_regIdx (r : RegIdx) : (BitVec.ofNat 5 r.val).toFin = r :=
  Fin.ext (by simp)

/-! The fields of an encoded word -/

/-- The three fields above bit 18, which both formats share (R83, R84). -/
def headFields (op : BitVec 3) (ra rb : RegIdx) : InstrWord :=
  placeField 29 op ||| placeField 24 (BitVec.ofNat 5 ra.val) ||| placeField 19 (BitVec.ofNat 5 rb.val)

section head

variable (op : BitVec 3) (ra rb rc : RegIdx) (offset : Int)

theorem encodeR_eq_head : encodeR op ra rb rc = headFields op ra rb ||| placeField 14 (BitVec.ofNat 5 rc.val) := rfl

theorem encodeM_eq_head :
    encodeM offw op ra offset rb = headFields op ra rb ||| placeField 0 (BitVec.ofInt offw offset) := rfl

theorem extractLsb'_headFields_low {start len : Nat} (h : start + len ≤ 19) :
    (headFields op ra rb).extractLsb' start len = 0#len := by
  simp (disch := omega) only [headFields, BitVec.extractLsb'_or, extractLsb'_placeField_disjoint, BitVec.or_zero]

theorem extractLsb'_head_or {n lo start len : Nat} (v : BitVec n) (h : start + len ≤ 19) :
    (headFields op ra rb ||| placeField lo v).extractLsb' start len = (placeField lo v).extractLsb' start len := by
  rw [BitVec.extractLsb'_or, extractLsb'_headFields_low op ra rb h, BitVec.zero_or]

variable {n lo : Nat} (v : BitVec n) (hlow : lo + n ≤ 19)
include hlow

theorem opField_head_or : opField (headFields op ra rb ||| placeField lo v) = op.toNat := by
  simp (disch := omega) only [opField, headFields, BitVec.extractLsb'_or, extractLsb'_placeField_same,
    extractLsb'_placeField_disjoint, BitVec.or_zero]

theorem regField_24_head_or : regField 24 (headFields op ra rb ||| placeField lo v) = ra := by
  simp (disch := omega) only [regField, headFields, BitVec.extractLsb'_or, extractLsb'_placeField_same,
    extractLsb'_placeField_disjoint, BitVec.or_zero, BitVec.zero_or, toFin_ofNat_regIdx]

theorem regField_19_head_or : regField 19 (headFields op ra rb ||| placeField lo v) = rb := by
  simp (disch := omega) only [regField, headFields, BitVec.extractLsb'_or, extractLsb'_placeField_same,
    extractLsb'_placeField_disjoint, BitVec.or_zero, BitVec.zero_or, toFin_ofNat_regIdx]

end head

section encodeR

variable (op : BitVec 3) (ra rb rc : RegIdx)

@[simp] theorem opField_encodeR : opField (encodeR op ra rb rc) = op.toNat :=
  opField_head_or op ra rb _ (by decide)

@[simp] theorem regField_24_encodeR : regField 24 (encodeR op ra rb rc) = ra :=
  regField_24_head_or op ra rb _ (by decide)

@[simp] theorem regField_19_encodeR : regField 19 (encodeR op ra rb rc) = rb :=
  regField_19_head_or op ra rb _ (by decide)

@[simp] theorem regField_14_encodeR : regField 14 (encodeR op ra rb rc) = rc := by
  rw [regField, encodeR_eq_head, extractLsb'_head_or _ _ _ _ (by decide),
    extractLsb'_placeField_same _ (by decide), toFin_ofNat_regIdx]

@[simp] theorem zero14Field_encodeR : zero14Field (encodeR op ra rb rc) = 0 := by
  rw [zero14Field, encodeR_eq_head, extractLsb'_head_or _ _ _ _ (by decide),
    extractLsb'_placeField_disjoint _ (by decide), BitVec.ofNat_eq_ofNat]

end encodeR

section encodeM

variable (hw : OffsetWidthFits offw) (op : BitVec 3) (ra rb : RegIdx) (offset : Int)
include hw

theorem offset_below_head : 0 + offw ≤ 19 := by
  obtain ⟨-, hmax⟩ := hw
  omega

theorem opField_encodeM : opField (encodeM offw op ra offset rb) = op.toNat :=
  opField_head_or op ra rb _ (offset_below_head hw)

theorem regField_24_encodeM : regField 24 (encodeM offw op ra offset rb) = ra :=
  regField_24_head_or op ra rb _ (offset_below_head hw)

theorem regField_19_encodeM : regField 19 (encodeM offw op ra offset rb) = rb :=
  regField_19_head_or op ra rb _ (offset_below_head hw)

theorem zero3Field_encodeM : zero3Field offw (encodeM offw op ra offset rb) = 0 := by
  have hlow := offset_below_head hw
  rw [zero3Field, encodeM_eq_head, extractLsb'_head_or _ _ _ _ (by omega),
    extractLsb'_placeField_disjoint _ (by omega), BitVec.ofNat_eq_ofNat]

/-- The offset field holds the offset modulo 2^OFFW, read back as a signed number (R87). -/
theorem offsetField_encodeM_eq_wrap :
    offsetField offw (encodeM offw op ra offset rb) = Machine.wrap offw offset := by
  have hlow := offset_below_head hw
  rw [offsetField, encodeM_eq_head, extractLsb'_head_or _ _ _ _ hlow,
    extractLsb'_placeField_same _ (by omega), BitVec.toInt_ofInt, Machine.wrap]

theorem offsetField_encodeM (hfits : InRange offw offset) :
    offsetField offw (encodeM offw op ra offset rb) = offset := by
  rw [offsetField_encodeM_eq_wrap hw, Machine.wrap_eq_self hw.1 hfits]

end encodeM

/-- The sign-extended field lies in the range of `OFFW` bits (R87). -/
theorem inRange_offsetField (hw : OffsetWidthFits offw) (w : InstrWord) : InRange offw (offsetField offw w) := by
  rw [offsetField, BitVec.toInt_eq_toNat_bmod]
  exact Machine.inRange_wrap hw.1

/-! The fields determine the word -/

theorem getLsbD_eq_of_extractLsb'_eq {lo len i : Nat} (h : x.extractLsb' lo len = y.extractLsb' lo len) (hlo : lo ≤ i)
    (hhi : i < lo + len) : x.getLsbD i = y.getLsbD i := by
  have hbit := congrArg (·.getLsbD (i - lo)) h
  have hin : i - lo < len := by omega
  simpa [BitVec.getLsbD_extractLsb', hin, Nat.add_sub_cancel' hlo] using hbit

/-- Equal words, when the three head fields agree and the bits under them agree below and from a bit `k`. -/
theorem eq_of_head_and_split {k : Nat} (hop : opField x = opField y)
    (hra : regField 24 x = regField 24 y) (hrb : regField 19 x = regField 19 y)
    (hupper : x.extractLsb' k (19 - k) = y.extractLsb' k (19 - k)) (hlower : x.extractLsb' 0 k = y.extractLsb' 0 k) :
    x = y := by
  apply BitVec.eq_of_getLsbD_eq
  intro i hi
  have hplace : i < 0 + k ∨ (k ≤ i ∧ i < k + (19 - k)) ∨ (19 ≤ i ∧ i < 19 + 5) ∨ (24 ≤ i ∧ i < 24 + 5) ∨
      (29 ≤ i ∧ i < 29 + 3) := by omega
  obtain h | ⟨hlo, hhi⟩ | ⟨hlo, hhi⟩ | ⟨hlo, hhi⟩ | ⟨hlo, hhi⟩ := hplace
  · exact getLsbD_eq_of_extractLsb'_eq hlower (Nat.zero_le i) h
  · exact getLsbD_eq_of_extractLsb'_eq hupper hlo hhi
  · exact getLsbD_eq_of_extractLsb'_eq (BitVec.toFin_inj.mp hrb) hlo hhi
  · exact getLsbD_eq_of_extractLsb'_eq (BitVec.toFin_inj.mp hra) hlo hhi
  · exact getLsbD_eq_of_extractLsb'_eq (BitVec.toNat_inj.mp hop) hlo hhi

/-- A format-R word is the encoding of its own fields (R83). -/
theorem encodeR_fields {op : BitVec 3} (hop : opField x = op.toNat) (hzero : zero14Field x = 0) :
    encodeR op (regField 24 x) (regField 19 x) (regField 14 x) = x := by
  refine eq_of_head_and_split (k := 14) (by simp [hop]) (by simp) (by simp) ?upper ?lower
  case upper => exact BitVec.toFin_inj.mp (regField_14_encodeR _ _ _ _ :)
  case lower => exact (zero14Field_encodeR _ _ _ _).trans hzero.symm

/-- A format-M word is the encoding of its own fields (R84). -/
theorem encodeM_fields (hw : OffsetWidthFits offw) {op : BitVec 3} (hop : opField x = op.toNat)
    (hzero : zero3Field offw x = 0) :
    encodeM offw op (regField 24 x) (offsetField offw x) (regField 19 x) = x := by
  refine eq_of_head_and_split (k := offw) ?op (regField_24_encodeM hw _ _ _ _) (regField_19_encodeM hw _ _ _ _)
    ?upper ?lower
  case op => exact (opField_encodeM hw _ _ _ _).trans hop.symm
  case upper => exact (zero3Field_encodeM hw _ _ _ _).trans hzero.symm
  case lower => exact BitVec.toInt_inj.mp (offsetField_encodeM hw _ _ _ _ (inRange_offsetField hw x))

end Sys2Proof
end

section
/-! PROOF. The decoder and the encoder as inverses (R88), the opcode map (R89) and the reserved words (R90). Each row of
the opcode map is described once, by `IsRow` and `fieldsInstr`; decoder and encoder are tied to that description. -/

namespace Sys2Proof

variable {offw : Nat} {w : InstrWord} {i : Instr} {k : Kind}

/-! The rows of the opcode map -/

/-- The operation number of a row (R85, R89). -/
def opNumber : Kind → BitVec 3
  | .add => 0
  | .sub => 1
  | .mul => 2
  | .div => 3
  | .load => 4
  | .store => 5

/-- The must-be-zero field of a row's format is 0 (R83, R84). -/
def ZeroFieldClear (offw : Nat) (w : InstrWord) : Kind → Prop
  | .add => zero14Field w = 0
  | .sub => zero14Field w = 0
  | .mul => zero14Field w = 0
  | .div => zero14Field w = 0
  | .load => zero3Field offw w = 0
  | .store => zero3Field offw w = 0

/-- A word has the fixed bits of a row (R89). -/
structure IsRow (offw : Nat) (k : Kind) (w : InstrWord) : Prop where
  op : opField w = (opNumber k).toNat
  zero : ZeroFieldClear offw w k

/-- The record of a row whose operands are the fields of the word (R89). -/
def fieldsInstr (offw : Nat) (w : InstrWord) : Kind → Instr
  | .add => .add (regField 24 w) (regField 19 w) (regField 14 w)
  | .sub => .sub (regField 24 w) (regField 19 w) (regField 14 w)
  | .mul => .mul (regField 24 w) (regField 19 w) (regField 14 w)
  | .div => .div (regField 24 w) (regField 19 w) (regField 14 w)
  | .load => .load (regField 24 w) (offsetField offw w) (regField 19 w)
  | .store => .store (regField 24 w) (offsetField offw w) (regField 19 w)

@[simp] theorem kind_fieldsInstr (offw : Nat) (w : InstrWord) (k : Kind) : (fieldsInstr offw w k).kind = k := by
  cases k <;> rfl

/-! The decoder by rows -/

theorem decodeR_eq_instr_iff {make : RegIdx → RegIdx → RegIdx → Instr} :
    decodeR make w = .instr i ↔ zero14Field w = 0 ∧ make (regField 24 w) (regField 19 w) (regField 14 w) = i := by
  unfold decodeR
  split <;> simp_all

theorem decodeM_eq_instr_iff {make : RegIdx → Int → RegIdx → Instr} :
    decodeM offw make w = .instr i ↔
      zero3Field offw w = 0 ∧ make (regField 24 w) (offsetField offw w) (regField 19 w) = i := by
  unfold decodeM
  split <;> simp_all

theorem decode_of_isRow (h : IsRow offw k w) : decode offw w = .instr (fieldsInstr offw w k) := by
  obtain ⟨hop, hzero⟩ := h
  unfold decode
  cases k <;> rw [hop]
  case add | sub | mul | div => exact decodeR_eq_instr_iff.mpr ⟨hzero, rfl⟩
  case load | store => exact decodeM_eq_instr_iff.mpr ⟨hzero, rfl⟩

theorem exists_isRow_of_decode (h : decode offw w = .instr i) : ∃ k, IsRow offw k w ∧ fieldsInstr offw w k = i := by
  unfold decode at h
  split at h
  case h_1 hop => exact ⟨.add, (decodeR_eq_instr_iff.mp h).imp_left (.mk hop)⟩
  case h_2 hop => exact ⟨.sub, (decodeR_eq_instr_iff.mp h).imp_left (.mk hop)⟩
  case h_3 hop => exact ⟨.mul, (decodeR_eq_instr_iff.mp h).imp_left (.mk hop)⟩
  case h_4 hop => exact ⟨.div, (decodeR_eq_instr_iff.mp h).imp_left (.mk hop)⟩
  case h_5 hop => exact ⟨.load, (decodeM_eq_instr_iff.mp h).imp_left (.mk hop)⟩
  case h_6 hop => exact ⟨.store, (decodeM_eq_instr_iff.mp h).imp_left (.mk hop)⟩
  case h_7 => cases h

/-- What the decoder answers: a word that is an instruction has the fixed bits of one row and that row's fields. -/
theorem decode_eq_instr_iff :
    decode offw w = .instr i ↔ ∃ k, IsRow offw k w ∧ fieldsInstr offw w k = i := by
  refine ⟨exists_isRow_of_decode, ?_⟩
  rintro ⟨k, hrow, rfl⟩
  exact decode_of_isRow hrow

/-! The encoder by rows -/

theorem offsetFits_iff {offset : Int} : offsetFits offw offset = true ↔ InRange offw offset := decide_eq_true_iff

theorem isRow_encode (hw : OffsetWidthFits offw) (i : Instr) : IsRow offw i.kind (encode offw i) := by
  cases i
  case add | sub | mul | div => exact ⟨opField_encodeR _ _ _ _, zero14Field_encodeR _ _ _ _⟩
  case load | store => exact ⟨opField_encodeM hw _ _ _ _, zero3Field_encodeM hw _ _ _ _⟩

theorem fieldsInstr_encode (hw : OffsetWidthFits offw) (hwf : i.wellFormed offw = true) :
    fieldsInstr offw (encode offw i) i.kind = i := by
  cases i
  case add | sub | mul | div => simp [Instr.kind, encode, fieldsInstr]
  case load | store =>
    simp [Instr.kind, encode, fieldsInstr, regField_24_encodeM hw, regField_19_encodeM hw,
      offsetField_encodeM hw _ _ _ _ (offsetFits_iff.mp hwf)]

theorem wellFormed_fieldsInstr (hw : OffsetWidthFits offw) (w : InstrWord) (k : Kind) :
    (fieldsInstr offw w k).wellFormed offw = true := by
  cases k
  case add | sub | mul | div => rfl
  case load | store => exact offsetFits_iff.mpr (inRange_offsetField hw w)

theorem encode_fieldsInstr (hw : OffsetWidthFits offw) (h : IsRow offw k w) :
    encode offw (fieldsInstr offw w k) = w := by
  obtain ⟨hop, hzero⟩ := h
  cases k
  case add | sub | mul | div => exact encodeR_fields hop hzero
  case load | store => exact encodeM_fields hw hop hzero

/-! The two directions of R88 -/

/-- Settles O1: the encoded word has the fixed bits of its record's row, and the fields that the row names are the record's
operands. -/
theorem decodeOfEncode : Obligations.DecodeOfEncode := by
  intro offw i hw hwf
  exact decode_eq_instr_iff.mpr ⟨i.kind, isRow_encode hw i, fieldsInstr_encode hw hwf⟩

/-- Settles O2: a decodable word is the encoding of the fields of its row. -/
theorem encodeOfDecode : Obligations.EncodeOfDecode := by
  intro offw w i hw h
  obtain ⟨k, hrow, rfl⟩ := decode_eq_instr_iff.mp h
  exact ⟨wellFormed_fieldsInstr hw w k, encode_fieldsInstr hw hrow⟩

/-! `match` and `mask` (R89) -/

theorem encode_fitsRow (i : Instr) : Laws.EncodeFitsRow.Statement i := by
  cases i with
  | add rd rs1 rs2 => exact Laws.EncodeFitsRow.add rd rs1 rs2
  | sub rd rs1 rs2 => exact Laws.EncodeFitsRow.sub rd rs1 rs2
  | mul rd rs1 rs2 => exact Laws.EncodeFitsRow.mul rd rs1 rs2
  | div rd rs1 rs2 => exact Laws.EncodeFitsRow.div rd rs1 rs2
  | load rd offset base => exact Laws.EncodeFitsRow.load rd offset base
  | store rsrc offset base => exact Laws.EncodeFitsRow.store rsrc offset base

/-- A mask whose bits at a field are all 1 leaves that field. -/
theorem extractLsb'_and_of_allOnes {mask : InstrWord} {lo len : Nat}
    (hmask : mask.extractLsb' lo len = BitVec.allOnes len) :
    (w &&& mask).extractLsb' lo len = w.extractLsb' lo len := by
  rw [BitVec.extractLsb'_and, hmask, BitVec.and_allOnes]

theorem opField_and_rowMask (w : InstrWord) (i : Instr) : opField (w &&& Laws.rowMask i) = opField w := by
  have hmask : (Laws.rowMask i).extractLsb' 29 3 = BitVec.allOnes 3 := by cases i <;> simp [Laws.rowMask]
  rw [opField, extractLsb'_and_of_allOnes hmask, opField]

/-- Of the fixed bits of a row, `op` alone is not 0. -/
theorem rowMatch_eq_placeField (i : Instr) : Laws.rowMatch i = placeField 29 (opNumber i.kind) := by
  cases i <;> simp [Laws.rowMatch, placeField, opNumber, Instr.kind]

theorem opField_rowMatch (i : Instr) : opField (Laws.rowMatch i) = (opNumber i.kind).toNat := by
  rw [rowMatch_eq_placeField, opField, extractLsb'_placeField_same _ (by decide)]

theorem zero14Field_and_mask (w : InstrWord) : zero14Field (w &&& 0xE0003FFF) = zero14Field w :=
  extractLsb'_and_of_allOnes rfl

theorem zero3Field_and_mask (w : InstrWord) : zero3Field 16 (w &&& 0xE0070000) = zero3Field 16 w :=
  extractLsb'_and_of_allOnes rfl

theorem zeroFieldClear_and_rowMask (w : InstrWord) (i : Instr) :
    ZeroFieldClear 16 (w &&& Laws.rowMask i) i.kind ↔ ZeroFieldClear 16 w i.kind := by
  cases i
  case add | sub | mul | div => exact Eq.congr_left (zero14Field_and_mask w)
  case load | store => exact Eq.congr_left (zero3Field_and_mask w)

theorem zeroFieldClear_rowMatch (i : Instr) : ZeroFieldClear 16 (Laws.rowMatch i) i.kind := by
  rw [rowMatch_eq_placeField]
  cases i <;> exact extractLsb'_placeField_disjoint _ (by decide)

/-- The masked bits determine `op` and the must-be-zero field, as the mask is 1 there. -/
theorem isRow_of_mask (h : w &&& Laws.rowMask i = Laws.rowMatch i) : IsRow 16 i.kind w where
  op := by rw [← opField_and_rowMask w i, h, opField_rowMatch]
  zero := by
    rw [← zeroFieldClear_and_rowMask, h]
    exact zeroFieldClear_rowMatch i

theorem mask_of_isRow (h : IsRow 16 k w) :
    w &&& Laws.rowMask (fieldsInstr 16 w k) = Laws.rowMatch (fieldsInstr 16 w k) := by
  have hfits : encode 16 (fieldsInstr 16 w k) &&& _ = _ := encode_fitsRow (fieldsInstr 16 w k)
  rwa [encode_fieldsInstr (by decide) h] at hfits

theorem decode_of_mask (k : Kind)
    (h : w &&& Laws.rowMask (fieldsInstr 16 w k) = Laws.rowMatch (fieldsInstr 16 w k)) :
    decode 16 w = .instr (fieldsInstr 16 w k) :=
  decode_of_isRow (kind_fieldsInstr 16 w k ▸ isRow_of_mask h)

/-- The sentence of R89, for the row of a kind. -/
theorem decode_kind_iff_mask (w : InstrWord) (k : Kind) :
    (∃ i, decode 16 w = .instr i ∧ i.kind = k) ↔
      w &&& Laws.rowMask (fieldsInstr 16 w k) = Laws.rowMatch (fieldsInstr 16 w k) := by
  constructor
  · rintro ⟨i, hi, rfl⟩
    obtain ⟨k, hrow, rfl⟩ := decode_eq_instr_iff.mp hi
    rw [kind_fieldsInstr]
    exact mask_of_isRow hrow
  · exact fun h => ⟨_, decode_of_mask k h, kind_fieldsInstr 16 w k⟩

/-- Settles O3: each clause is that of one row. -/
theorem decodeMatchesOpcodeMap : Obligations.DecodeMatchesOpcodeMap := by
  intro w
  exact ⟨decode_kind_iff_mask w .add, decode_kind_iff_mask w .sub, decode_kind_iff_mask w .mul,
    decode_kind_iff_mask w .div, decode_kind_iff_mask w .load, decode_kind_iff_mask w .store,
    decode_of_mask .add, decode_of_mask .sub, decode_of_mask .mul,
    decode_of_mask .div, decode_of_mask .load, decode_of_mask .store⟩

/-! The reserved words (R90) -/

theorem exists_reserved_iff {d : Decoded} : (∃ why, d = .reserved why) ↔ ¬ ∃ i, d = .instr i := by
  cases d <;> simp

theorem exists_isRow_iff :
    (∃ k, IsRow offw k w) ↔ (opField w ≤ 3 ∧ zero14Field w = 0) ∨
      (4 ≤ opField w ∧ opField w ≤ 5 ∧ zero3Field offw w = 0) := by
  constructor
  · rintro ⟨k, hop, hzero⟩
    rw [hop]
    cases k
    case add | sub | mul | div => exact .inl ⟨by decide, hzero⟩
    case load | store => exact .inr ⟨by decide, by decide, hzero⟩
  · rintro (⟨hle, hzero⟩ | ⟨hge, hle, hzero⟩)
    · have hop : opField w = 0 ∨ opField w = 1 ∨ opField w = 2 ∨ opField w = 3 := by omega
      obtain hop | hop | hop | hop := hop
      exacts [⟨.add, hop, hzero⟩, ⟨.sub, hop, hzero⟩, ⟨.mul, hop, hzero⟩, ⟨.div, hop, hzero⟩]
    · have hop : opField w = 4 ∨ opField w = 5 := by omega
      obtain hop | hop := hop
      exacts [⟨.load, hop, hzero⟩, ⟨.store, hop, hzero⟩]

theorem exists_instr_iff : (∃ i, decode offw w = .instr i) ↔ ∃ k, IsRow offw k w := by
  constructor
  · rintro ⟨i, hi⟩
    obtain ⟨k, hrow, -⟩ := decode_eq_instr_iff.mp hi
    exact ⟨k, hrow⟩
  · exact fun ⟨k, hrow⟩ => ⟨_, decode_of_isRow hrow⟩

/-- Settles O4: a word is reserved when it is of no row. -/
theorem reservedWordsExactly : Obligations.ReservedWordsExactly := by
  intro offw w _
  have hrows := (exists_instr_iff (offw := offw) (w := w)).trans exists_isRow_iff
  rw [exists_reserved_iff, hrows]
  change _ ↔ 6 ≤ opField w ∨ (opField w ≤ 3 ∧ zero14Field w ≠ 0) ∨
    (4 ≤ opField w ∧ opField w ≤ 5 ∧ zero3Field offw w ≠ 0)
  grind

end Sys2Proof
end

section
/-! PROOF. The load of a program (R90, R252): what it answers for an illegal configuration, for decodable words, and at
the first reserved word. -/

namespace Sys2Proof.Machine

variable {c : Config} {program : List InstrWord} {offw : Nat} {w : InstrWord}

theorem isNone_instr?_of_instr {i : Instr} (h : decode offw w = .instr i) :
    (decode offw w).instr?.isNone = false := by
  rw [h]
  rfl

theorem isNone_instr?_of_reserved {why : ReservedWhy} (h : decode offw w = .reserved why) :
    (decode offw w).instr?.isNone = true := by
  rw [h]
  rfl

theorem reservedIndex_of_decodable (h : ∀ w ∈ program, ∃ i, decode offw w = .instr i) :
    reservedIndex offw program = none := by
  refine List.findIdx?_eq_none_iff.mpr fun w hw => ?_
  obtain ⟨i, hi⟩ := h w hw
  exact isNone_instr?_of_instr hi

theorem reservedIndex_of_reserved {before after : List InstrWord} {why : ReservedWhy}
    (hbefore : ∀ v ∈ before, ∃ i, decode offw v = .instr i) (hw : decode offw w = .reserved why) :
    reservedIndex offw (before ++ w :: after) = some before.length := by
  have hfirst : before.findIdx? (fun v => (decode offw v).instr?.isNone) = none := reservedIndex_of_decodable hbefore
  rw [reservedIndex, List.findIdx?_append, hfirst, List.findIdx?_cons, if_pos (isNone_instr?_of_reserved hw)]
  simp

theorem loadProgram_of_not_legal (h : ¬ c.Legal) : loadProgram c program = .refused .illegalConfig := if_neg h

theorem loadProgram_of_decodable (h : c.Legal) (hindex : reservedIndex c.offw program = none) :
    loadProgram c program = .next (State.resetWith c program) := by
  rw [loadProgram, if_pos h, hindex]

theorem loadProgram_of_reserved (h : c.Legal) {i : Nat} (hindex : reservedIndex c.offw program = some i) :
    loadProgram c program = .refused (.reservedWord i) := by
  rw [loadProgram, if_pos h, hindex]

/-- Settles O7: the load answers by the legality of the configuration and by the index of the first reserved word. -/
theorem loadAcceptsExactlyDecodablePrograms : Obligations.LoadAcceptsExactlyDecodablePrograms := by
  intro c program
  refine ⟨loadProgram_of_not_legal, fun hlegal hall => ?decodable,
    fun hlegal before w after why heq hbefore hw => ?reserved⟩
  case decodable => exact loadProgram_of_decodable hlegal (reservedIndex_of_decodable hall)
  case reserved =>
    subst heq
    exact loadProgram_of_reserved hlegal (reservedIndex_of_reserved hbefore hw)

end Sys2Proof.Machine
end

section
/-! PROOF. A step as its phases (R100, R120), what Issue does whatever the state, and the cycle counter
(R102). -/

namespace Sys2Proof.Machine

variable {s t : State}

/-! The Issue phase of a step -/

theorem issuePhase_of_instr {w : InstrWord} {i : Instr} (hw : s.fetch = some w)
    (hd : decode s.cfg.offw w = .instr i) : issuePhase s = exec i s := by
  rw [issuePhase, hw]
  dsimp only
  rw [hd]

theorem issuePhase_of_none (h : s.fetch = none) : issuePhase s = .next s := by
  rw [issuePhase, h]

theorem andThen_congr {o : Host.Outcome State Fault Refusal} {f g : State → Host.Outcome State Fault Refusal}
    (h : ∀ u, o = .next u → f u = g u) : andThen o f = andThen o g := by
  cases o with
  | next u => exact h u rfl
  | fault r => rfl
  | refused r => rfl

/-- Commit and Write-Result leave the instruction under issue alone. -/
theorem fetch_before_issue {s1 s2 : State} (hcommit : commit s.clearEvents = .next s1)
    (hwrite : writeResult s1 = .next s2) : s2.cfg = s.cfg ∧ s2.fetch = s.fetch := by
  obtain ⟨hcfg, hprog, hpc, -, -⟩ := (commit_frontKept hcommit).trans (writeResult_frontKept hwrite)
  refine ⟨hcfg, ?_⟩
  rw [State.fetch, hprog, hpc]
  rfl

/-- A step with another phase in the place of Issue, when that phase is what Issue does after this cycle's Commit and
Write-Result. -/
theorem runCycle_eq_of_issuePhase {issue : State → Host.Outcome State Fault Refusal}
    (h : ∀ u, u.cfg = s.cfg → u.fetch = s.fetch → issuePhase u = issue u) :
    runCycle s = andThen (commit s.clearEvents) fun s1 =>
      andThen (writeResult s1) fun s2 =>
      andThen (issue s2) fun s3 =>
      andThen (executeStart s3) fun s4 =>
      andThen (executeAdvance s4) fun s5 =>
      .next s5.tick := by
  refine andThen_congr fun s1 hcommit => andThen_congr fun s2 hwrite => ?_
  obtain ⟨hcfg, hfetch⟩ := fetch_before_issue hcommit hwrite
  rw [h s2 hcfg hfetch]

/-- Settles O8: the Issue phase is the decoded instruction's Issue. -/
theorem stepRunsDecodedInstruction : Obligations.StepRunsDecodedInstruction := by
  intro s w i hw hd
  refine runCycle_eq_of_issuePhase (issue := exec i) fun u hcfg hfetch => ?_
  exact issuePhase_of_instr (hfetch.trans hw) (hcfg ▸ hd)

/-- Settles O9: without a word at `pc` the Issue phase does nothing. -/
theorem stepWithoutInstruction : Obligations.StepWithoutInstruction := by
  intro s hpc
  refine runCycle_eq_of_issuePhase (issue := .next) fun u _ hfetch => ?_
  exact issuePhase_of_none (hfetch.trans (List.getElem?_eq_none hpc))

/-! What Issue does, whatever the state -/

/-- Issue stalls, or begins and ends: it writes stations and ROB contents, renames the destination and moves `pc`
(R120 to R132). -/
def IssueOutcome (k : Kind) (dest : Option RegIdx) (s t : State) : Prop :=
  (beginIssue k dest s = none ∧ t = s) ∨
  ∃ id s1 pool rob, beginIssue k dest s = some (id, s1) ∧
    t = (({ s1 with rs := pool, rob := rob } : State).renameDest dest s.tail).advancePc

theorem storeDataAtIssue_eq (s : State) (b : Nat) (q : Station) :
    s.storeDataAtIssue b q = { s with rob := (s.storeDataAtIssue b q).rob } := by
  unfold State.storeDataAtIssue
  split <;> rfl

theorem issueArith_outcome {k : Kind} {rd rs1 rs2 : RegIdx} (h : issueArith k rd rs1 rs2 s = .next t) :
    IssueOutcome k (some rd) s t := by
  obtain hstall | ⟨id, s1, o1, o2, hb, -, -, rfl⟩ := issueArith_cases h
  · exact .inl hstall
  · exact .inr ⟨id, s1, _, _, hb, rfl⟩

theorem exec_outcome {i : Instr} (h : exec i s = .next t) : IssueOutcome i.kind i.dest s t := by
  cases i with
  | add rd rs1 rs2 => exact issueArith_outcome h
  | sub rd rs1 rs2 => exact issueArith_outcome h
  | mul rd rs1 rs2 => exact issueArith_outcome h
  | div rd rs1 rs2 => exact issueArith_outcome h
  | load rd offset base =>
    obtain hstall | ⟨id, s1, o, hb, -, rfl⟩ := issueLoad_cases h
    · exact .inl hstall
    · exact .inr ⟨id, s1, _, _, hb, rfl⟩
  | store rsrc offset base =>
    obtain hstall | ⟨id, s1, od, ob, hb, -, -, rfl⟩ := issueStore_cases h
    · exact .inl hstall
    · rw [storeDataAtIssue_eq]
      exact .inr ⟨id, s1, _, _, hb, rfl⟩

theorem renameDest_eq (s : State) (dest : Option RegIdx) (b : Nat) :
    s.renameDest dest b = { s with regStatus := (s.renameDest dest b).regStatus } := by
  cases dest <;> rfl

/-- An Issue that begins moves `pc`; no Issue writes the cycle counter. -/
theorem IssueOutcome.pc_cycle {k : Kind} {dest : Option RegIdx} (h : IssueOutcome k dest s t) :
    (beginIssue k dest s = none ∨ t.pc = s.pc + 1) ∧ t.cycle = s.cycle := by
  obtain ⟨hstall, rfl⟩ | ⟨id, s1, pool, rob, hb, rfl⟩ := h
  · exact ⟨.inl hstall, rfl⟩
  · obtain ⟨-, -, -, rfl⟩ := beginIssue_cases hb
    rw [renameDest_eq]
    exact ⟨.inr rfl, rfl⟩

theorem issuePhase_cycle (h : issuePhase s = .next t) : t.cycle = s.cycle := by
  obtain ⟨-, rfl⟩ | ⟨w, i, -, -, he⟩ | ⟨w, why, -, -, rfl⟩ := issuePhase_cases h
  · rfl
  · exact (exec_outcome he).pc_cycle.2
  · rfl

/-- Settles O26: no phase writes the cycle counter. -/
theorem everyStepCountsOneCycle : Obligations.EveryStepCountsOneCycle := by
  intro s t h
  obtain ⟨s1, s2, s3, s4, s5, hcommit, hwrite, hissue, hstart, hadvance, rfl⟩ := runCycle_cases h
  have hcycle : s5.cycle = s.cycle :=
    calc s5.cycle
      _ = s4.cycle := (executeAdvance_frontKept hadvance).cycle
      _ = s3.cycle := (executeStart_frontKept hstart).cycle
      _ = s2.cycle := issuePhase_cycle hissue
      _ = s1.cycle := (writeResult_frontKept hwrite).cycle
      _ = s.cycle := (commit_frontKept hcommit).cycle
  exact congrArg (· + 1) hcycle

end Sys2Proof.Machine
end

section
/-! PROOF. At most one architectural location changes in a step (R107): Commit writes it. -/

namespace Sys2Proof.Machine

variable {s t : State}

/-- A step's registers and memory are those that its Commit leaves. -/
theorem step_arch (h : step s = .next t) : ∃ s1, commit s.clearEvents = .next s1 ∧ t.arch = s1.arch := by
  obtain ⟨s1, s2, s3, s4, s5, hcommit, hwrite, hissue, hstart, hadvance, rfl⟩ := runCycle_cases h
  refine ⟨s1, hcommit, ?_⟩
  calc s5.arch
    _ = s4.arch := executeAdvance_arch hadvance
    _ = s3.arch := executeStart_arch hstart
    _ = s2.arch := issuePhase_arch hissue
    _ = s1.arch := writeResult_arch hwrite

/-- A STORE writes the word of its address at most. -/
theorem read_memWrite_other {c : Config} {m : Memory} {address : Int} {a : Nat} (v : Int)
    (hne : address ≠ (a : Int)) : Memory.read c (memWrite c m address v) a = Memory.read c m a := by
  unfold memWrite
  split
  · next hvalid =>
    obtain ⟨hpos, -⟩ := addressValid_iff.mp hvalid
    exact read_write_other (by omega)
  · rfl

/-- What Commit may write: the head's destination register, or the word that a STORE at the head addresses. -/
theorem commit_writes (h : commit s = .next t) :
    (t.mem = s.mem ∧ ∀ r : RegIdx, (s.entry s.head).destinationRegister ≠ some r → t.reg r = s.reg r) ∨
    (t.regs = s.regs ∧ (s.entry s.head).kind = some .store ∧
      t.mem = memWrite s.cfg s.mem (s.entry s.head).address (s.entry s.head).value) := by
  obtain ⟨-, rfl⟩ | ⟨-, i, -, ⟨hstore, rfl⟩ | ⟨-, -, r, hdest, rfl⟩⟩ := commit_cases h
  · exact .inl ⟨rfl, fun _ _ => rfl⟩
  · exact .inr ⟨rfl, hstore, rfl⟩
  · rw [State.commitRegister, unrename_eq]
    refine .inl ⟨rfl, fun r' hr' => reg_setReg_other s _ ?_⟩
    rintro rfl
    exact hr' hdest

/-- Settles O29: Commit alone writes registers and memory, and it writes one of them. -/
theorem oneArchitecturalUpdatePerStep : Obligations.OneArchitecturalUpdatePerStep := by
  intro s t h
  obtain ⟨s1, hcommit, harch⟩ := step_arch h
  obtain ⟨-, hcfg⟩ := stepKeepsProgramAndConfiguration s t h
  have hregs : t.regs = s1.regs := congrArg ArchState.regs harch
  have hmem : t.mem = s1.mem := congrArg ArchState.mem harch
  obtain ⟨hkept, hreg⟩ | ⟨hkept, hstore, hwrite⟩ := commit_writes hcommit
  · refine .inl ⟨hmem.trans hkept, fun r hr => ?_⟩
    rw [State.reg, hregs]
    exact hreg r hr
  · refine .inr ⟨hregs.trans hkept, hstore, fun a ha => ?_⟩
    rw [hcfg, hmem, hwrite]
    exact read_memWrite_other _ ha

end Sys2Proof.Machine
end

section
/-! PROOF. The end of a run (R104, R105): `done` says that every instruction has committed, and a step after it finds
nothing to do. -/

namespace Sys2Proof.Machine

variable {s : State}

theorem done_iff : s.done = true ↔
    (∀ i < s.prog.length, (s.stampOf i).commit ≠ none) ∧ s.entriesAvailable = s.cfg.robSize ∧ s.fu = [] ∧ s.cdbq = [] ∧
      s.pc = s.prog.length := by
  simp [State.done, and_assoc, Option.isSome_iff_ne_none]

/-! Nothing in flight -/

theorem inFlight_eq_zero_iff (h : Shape s) : s.inFlight = 0 ↔ s.entriesAvailable = s.cfg.robSize := by
  have := h.availableRange
  unfold State.inFlight
  omega

section drained

variable (h : MidCycle s) (hnone : s.inFlight = 0)
include h hnone

theorem MidCycle.entry_of_drained (p : Nat) : s.entry p = {} := by
  by_contra hne
  obtain ⟨j, hj, -⟩ := h.queue.place h.shape hne
  omega

/-- With nothing in flight every station is free. -/
theorem MidCycle.station_of_drained {id : StationId} (hid : id ∈ s.cfg.stationOrder) :
    (s.station id).busy = false := by
  by_contra hbusy
  obtain ⟨b, -, -, hpend, -⟩ := h.stations.entryOf id hid (Bool.not_eq_false _ ▸ hbusy)
  exact hpend.ne_empty (h.entry_of_drained hnone b)

theorem MidCycle.fu_of_drained : s.fu = [] := by
  refine List.eq_nil_iff_forall_not_mem.mpr fun f hf => ?_
  obtain ⟨⟨hid, hbusy, -⟩, -⟩ := h.tracked.record f hf
  simp [h.station_of_drained hnone hid] at hbusy

theorem MidCycle.cdbq_of_drained : s.cdbq = [] := by
  refine List.eq_nil_iff_forall_not_mem.mpr fun b hb => ?_
  have hexecuting := h.tracked.queued_executing hb
  simp [h.entry_of_drained hnone b] at hexecuting

end drained

/-- Every instruction has issued and none is in flight: the run is done. -/
theorem PipelineInvariant.done_of_drained (h : PipelineInvariant s) (hnone : s.inFlight = 0)
    (hpc : s.pc = s.prog.length) : s.done = true := by
  refine done_iff.mpr ⟨fun i hi => ?_, (inFlight_eq_zero_iff h.shape).mp hnone, h.midCycle.fu_of_drained hnone,
    h.midCycle.cdbq_of_drained hnone, hpc⟩
  exact Option.isSome_iff_ne_none.mp (h.stamps.committed i hi (by omega))

/-- An instruction that is not issued, or in flight, has no commit stamp. -/
theorem PipelineInvariant.done_of_committed (h : PipelineInvariant s)
    (hall : ∀ i < s.prog.length, (s.stampOf i).commit ≠ none) : s.done = true := by
  have hpc : s.pc = s.prog.length := by
    refine Nat.le_antisymm h.shape.pcRange (Nat.le_of_not_lt fun hlt => hall s.pc hlt ?_)
    rw [h.stamps.unissued s.pc hlt (Nat.le_refl _)]
  refine h.done_of_drained (Nat.eq_zero_of_not_pos fun hfly => ?_) hpc
  have hissued := h.queue.index_lt_pc hfly
  obtain ⟨-, -, -, hnone⟩ := h.stamps.flying 0 hfly
  exact hall _ (hpc ▸ hissued) hnone

/-- Settles O44. -/
theorem doneIsAllCommitted : Obligations.DoneIsAllCommitted := by
  refine ⟨fun s => done_iff, fun s h => h.done_of_committed, fun c => done_iff.mpr ⟨?_, rfl, rfl, rfl, rfl⟩⟩
  exact fun i hi => absurd hi (Nat.not_lt_zero i)

/-! A step after the end -/

/-- A loop none of whose calls changes the state. -/
theorem forEach_stays {α : Type} {f : State → α → Host.Outcome State Fault Refusal} {l : List α}
    (h : ∀ x ∈ l, f s x = .next s) : forEach f l s = .next s := by
  induction l with
  | nil => rfl
  | cons x l ih =>
    obtain ⟨hx, hl⟩ := List.forall_mem_cons.mp h
    rw [forEach, hx]
    exact ih hl

theorem commit_of_not_ready (h : s.commitReady = false) : commit s = .next s := by
  rw [commit, if_neg (by simp [h])]

theorem writeResult_of_nil (h : s.cdbq = []) : writeResult s = .next s := by
  rw [writeResult, h]

theorem dispatchStation_of_free {id : StationId} (h : (s.station id).busy = false) :
    dispatchStation s id = .next s := by
  rw [dispatchStation, if_neg]
  simp [State.dispatchable, h]

theorem executeAdvance_of_nil (h : s.fu = []) : executeAdvance s = .next s := by
  have hvisit : visitOrder s.cfg.recordOrder [] = [] := (visitOrder_perm _ []).eq_nil
  have hset : s.setFu [] = s := by rw [← h]; rfl
  simp only [executeAdvance, h, List.map_nil, List.filter_nil, hvisit, hset]
  rfl

/-- Settles O45: no phase finds an instruction to work on. -/
theorem stepAfterDoneOnlyCounts : Obligations.StepAfterDoneOnlyCounts := by
  intro s h hdone
  obtain ⟨-, havailable, hfu, hcdbq, hpc⟩ := done_iff.mp hdone
  have h0 : PipelineInvariant s.clearEvents := h.withArch
  have hnone : s.inFlight = 0 := (inFlight_eq_zero_iff h.shape).mpr havailable
  have hready : s.clearEvents.commitReady = false := by simp [State.commitReady, havailable]
  have hcommit : commit s.clearEvents = .next s.clearEvents := commit_of_not_ready hready
  have hwrite : writeResult s.clearEvents = .next s.clearEvents := writeResult_of_nil hcdbq
  have hstart : executeStart s.clearEvents = .next s.clearEvents := forEach_stays fun id hid =>
    dispatchStation_of_free
      (h0.midCycle.station_of_drained hnone ((legal_scanOrder_perm h.shape.legal).mem_iff.mp hid))
  have hadvance : executeAdvance s.clearEvents = .next s.clearEvents := executeAdvance_of_nil hfu
  rw [stepWithoutInstruction s hpc.ge]
  change andThen (commit s.clearEvents) _ = _
  rw [hcommit, andThen_of_next, hwrite, andThen_of_next, hstart, andThen_of_next, hadvance, andThen_of_next]
  rfl

end Sys2Proof.Machine
end

section
/-! PROOF. No phase stops under the invariant (R165, R234): whatever a phase looks for is there. -/

namespace Sys2Proof.Machine

variable {s t : State}

/-! Commit -/

/-- The head that has written its result has its kind, its instruction index and, unless a STORE, its destination. -/
theorem commit_completes (h : PipelineInvariant s) : ∃ t, commit s = .next t := by
  cases hready : s.commitReady
  · exact ⟨s, commit_of_not_ready hready⟩
  · obtain ⟨-, hbusy, -⟩ := (commitReady_iff s).mp hready
    obtain ⟨j, -, -, -, -, hi, hkind, hdest⟩ := h.queue.place h.shape (RobEntry.ne_empty_of_busy hbusy)
    obtain ⟨k, hk⟩ := Option.ne_none_iff_exists'.mp hkind
    rw [commit, if_pos hready, hi, hk]
    by_cases hstore : k = .store
    · subst hstore
      exact ⟨_, rfl⟩
    · have hsome : (s.entry s.head).destinationRegister ≠ none := fun hnone =>
        hstore (Option.some.inj (hk.symm.trans (hdest.mp hnone)))
      obtain ⟨r, hr⟩ := Option.ne_none_iff_exists'.mp hsome
      rw [hr]
      cases k <;> exact ⟨_, rfl⟩

/-! Write-Result -/

/-- A busy station has its entry, its kind and its instruction index (R47). -/
theorem MidCycle.station_complete (h : MidCycle s) {id : StationId} (hid : id ∈ s.cfg.stationOrder)
    (hbusy : (s.station id).busy = true) :
    ∃ b k i, (s.station id).destRob = some b ∧ (s.station id).op = some k ∧
      (s.station id).instructionIndex = some i := by
  obtain ⟨b, -, hdest, hpend, hindex, hop, -⟩ := h.stations.entryOf id hid hbusy
  obtain ⟨j, -, -, -, -, hi, hkind, -⟩ := h.queue.place h.shape hpend.ne_empty
  obtain ⟨k, hk⟩ := Option.ne_none_iff_exists'.mp hkind
  exact ⟨b, k, _, hdest, hop.trans hk, hindex.trans hi⟩

theorem writeResult_completes (h : MidCycle s) : ∃ t, writeResult s = .next t := by
  unfold writeResult
  split
  · exact ⟨s, rfl⟩
  · next b rest hq =>
    obtain ⟨hlt, hst, -⟩ := h.tracked.queued b (hq ▸ List.mem_cons_self)
    obtain ⟨id, hid, hprod⟩ := h.stations.stationOf b hlt (.inr hst)
    have hfound : ((s.setCdbq rest).locateStation b).isSome = true := List.find?_isSome.mpr ⟨id, hid, hprod⟩
    obtain ⟨id', hloc⟩ := Option.isSome_iff_exists.mp hfound
    obtain ⟨hid', hbusy, -⟩ := locateStation_spec hloc
    obtain ⟨-, k, i, -, hk, hi⟩ := h.station_complete hid' hbusy
    rw [hloc]
    dsimp only
    rw [hk, hi]
    exact ⟨_, rfl⟩

/-! Issue -/

/-- Capture fails at a busy row without a producer only (R126). -/
theorem capture_completes {r : RegIdx} (h : (s.rename r).busy = true → (s.rename r).robIndex ≠ none) :
    ∃ o, capture s r = some o := by
  unfold capture
  split
  · next hbusy =>
    obtain ⟨p, hp⟩ := Option.ne_none_iff_exists'.mp (h hbusy)
    rw [hp]
    dsimp only
    split <;> exact ⟨_, rfl⟩
  · exact ⟨_, rfl⟩

/-- While Issue captures the operands, the rename table is still the old one (R132). -/
theorem capture_begun_completes (h : MidCycle s) {k : Kind} {dest : Option RegIdx} {id : StationId} {s1 : State}
    (hb : beginIssue k dest s = some (id, s1)) (r : RegIdx) : ∃ o, capture s1 r = some o := by
  obtain ⟨-, -, -, rfl⟩ := beginIssue_cases hb
  refine capture_completes fun hbusy hnone => ?_
  obtain ⟨p, -, hp, -⟩ := h.rename.producer r hbusy
  exact Option.some_ne_none p (hp.symm.trans hnone)

theorem issueArith_completes (h : MidCycle s) (k : Kind) (rd rs1 rs2 : RegIdx) :
    ∃ t, issueArith k rd rs1 rs2 s = .next t := by
  unfold issueArith
  split
  · exact ⟨s, rfl⟩
  · next id s1 hb =>
    obtain ⟨o1, h1⟩ := capture_begun_completes h hb rs1
    obtain ⟨o2, h2⟩ := capture_begun_completes h hb rs2
    rw [h1, h2]
    exact ⟨_, rfl⟩

theorem exec_completes (h : MidCycle s) (i : Instr) : ∃ t, exec i s = .next t := by
  cases i with
  | add rd rs1 rs2 => exact issueArith_completes h .add rd rs1 rs2
  | sub rd rs1 rs2 => exact issueArith_completes h .sub rd rs1 rs2
  | mul rd rs1 rs2 => exact issueArith_completes h .mul rd rs1 rs2
  | div rd rs1 rs2 => exact issueArith_completes h .div rd rs1 rs2
  | load rd offset base =>
    change ∃ t, issueLoad rd offset base s = .next t
    unfold issueLoad
    split
    · exact ⟨s, rfl⟩
    · next id s1 hb =>
      obtain ⟨o, ho⟩ := capture_begun_completes h hb base
      rw [ho]
      exact ⟨_, rfl⟩
  | store rsrc offset base =>
    change ∃ t, issueStore rsrc offset base s = .next t
    unfold issueStore
    split
    · exact ⟨s, rfl⟩
    · next id s1 hb =>
      obtain ⟨od, hd⟩ := capture_begun_completes h hb rsrc
      obtain ⟨ob, ho⟩ := capture_begun_completes h hb base
      rw [hd, ho]
      exact ⟨_, rfl⟩

theorem issuePhase_completes (h : MidCycle s) : ∃ t, issuePhase s = .next t := by
  unfold issuePhase
  split
  · exact ⟨s, rfl⟩
  · split
    · exact exec_completes h _
    · exact ⟨_, rfl⟩

/-! Execute -/

theorem dispatchStation_completes (h : MidCycle s) {id : StationId} (hid : id ∈ s.cfg.stationOrder) :
    ∃ t, dispatchStation s id = .next t := by
  unfold dispatchStation
  split
  · next hready =>
    obtain ⟨hbusy, -⟩ := (dispatchable_iff s _).mp hready
    obtain ⟨b, k, i, hb, hk, hi⟩ := h.station_complete hid hbusy
    rw [hb, hk, hi]
    exact ⟨_, rfl⟩
  · exact ⟨s, rfl⟩

theorem executeStart_completes (h : MidCycle s) : ∃ t, executeStart s = .next t := by
  have hscan := legal_scanOrder_perm h.shape.legal
  have hloop : ∃ t, forEach dispatchStation s.cfg.scanOrder s = .next t ∧ ∃ visited, Dispatching s.cfg visited t := by
    refine forEach_completes (fun id hid u ⟨visited, hu⟩ => ?_) ⟨[], h, rfl, by simp⟩
    have hmem := hscan.mem_iff.mp hid
    obtain ⟨v, hv⟩ := dispatchStation_completes hu.inv (hu.cfg.symm ▸ hmem)
    exact ⟨v, hv, id :: visited, dispatchStation_dispatching hu hmem hv⟩
  obtain ⟨t, ht, -⟩ := hloop
  exact ⟨t, ht⟩

theorem executeAdvance_completes (h : MidCycle s) : ∃ t, executeAdvance s = .next t := by
  unfold executeAdvance
  dsimp only
  set finished := (s.fu.map FuRecord.decrement).filter FuRecord.finished
  set counting := (s.fu.map FuRecord.decrement).filter fun f => !f.finished
  have hloop : ∃ t, forEach completeRecord (visitOrder s.cfg.recordOrder finished) (s.setFu counting) = .next t ∧
      t.rs = s.rs := by
    refine forEach_completes (P := fun u => u.rs = s.rs) (fun f hf u hu => ?_) rfl
    have hmem := List.mem_of_mem_filter ((visitOrder_perm _ _).mem_iff.mp hf)
    obtain ⟨g, hg, rfl⟩ := List.mem_map.mp hmem
    obtain ⟨⟨hid, hbusy, -⟩, -⟩ := h.tracked.record g hg
    obtain ⟨b, -, -, hb, -, -⟩ := h.station_complete hid hbusy
    have hb' : (u.station g.decrement.rs).destRob = some b := by
      rw [station_of_rs hu]
      exact hb
    rw [completeRecord, hb']
    exact ⟨_, rfl, hu⟩
  obtain ⟨t, ht, -⟩ := hloop
  exact ⟨t, ht⟩

/-! The cycle -/

/-- The states between the phases of one cycle from `s`, with the invariant that each meets. -/
structure CyclePhases (s s1 s2 s3 s4 s5 : State) : Prop where
  commit : commit s.clearEvents = .next s1
  write : writeResult s1 = .next s2
  issue : issuePhase s2 = .next s3
  start : executeStart s3 = .next s4
  advance : executeAdvance s4 = .next s5
  mid1 : MidCycle s1
  mid2 : MidCycle s2
  mid3 : MidCycle s3
  mid4 : MidCycle s4

theorem PipelineInvariant.cyclePhases (h : PipelineInvariant s) (ht : step s = .next t) :
    ∃ s1 s2 s3 s4 s5, CyclePhases s s1 s2 s3 s4 s5 ∧ t = s5.tick := by
  obtain ⟨s1, s2, s3, s4, s5, hcommit, hwrite, hissue, hstart, hadvance, rfl⟩ := runCycle_cases ht
  have h0 : PipelineInvariant s.clearEvents := h.withArch
  have h1 : MidCycle s1 := commit_midCycle h0 hcommit
  have h2 : MidCycle s2 := writeResult_midCycle h1 (commit_completedBefore h0 hcommit) hwrite
  have h3 : MidCycle s3 := issuePhase_midCycle h2 hissue
  have h4 : MidCycle s4 := (executeStart_midCycle h3 hstart).1
  exact ⟨s1, s2, s3, s4, s5, ⟨hcommit, hwrite, hissue, hstart, hadvance, h1, h2, h3, h4⟩, rfl⟩

/-- From a state that meets the invariant every step answers a next state. -/
theorem step_completes (h : PipelineInvariant s) : ∃ t, step s = .next t := by
  have h0 : PipelineInvariant s.clearEvents := h.withArch
  obtain ⟨s1, hcommit⟩ := commit_completes h0
  have h1 : MidCycle s1 := commit_midCycle h0 hcommit
  obtain ⟨s2, hwrite⟩ := writeResult_completes h1
  have h2 : MidCycle s2 := writeResult_midCycle h1 (commit_completedBefore h0 hcommit) hwrite
  obtain ⟨s3, hissue⟩ := issuePhase_completes h2
  have h3 : MidCycle s3 := issuePhase_midCycle h2 hissue
  obtain ⟨s4, hstart⟩ := executeStart_completes h3
  obtain ⟨s5, hadvance⟩ := executeAdvance_completes (executeStart_midCycle h3 hstart).1
  exact ⟨s5.tick, by simp [step, runCycle, hcommit, hwrite, hissue, hstart, hadvance]⟩

end Sys2Proof.Machine
end

section
/-! PROOF. The ROB window over a cycle (R35, R50): Commit moves its front, Issue its back, and Issue proceeds whenever
an entry and a station are free (R120). -/

namespace Sys2Proof.Machine

variable {s t u : State}

/-! What each phase keeps -/

/-- `t` has the ROB pointers of `s` too. -/
structure State.WindowKept (s t : State) : Prop extends State.FrontKept s t where
  head : t.head = s.head
  entriesAvailable : t.entriesAvailable = s.entriesAvailable

theorem State.WindowKept.refl (s : State) : s.WindowKept s := ⟨.refl s, rfl, rfl⟩

theorem State.WindowKept.trans (h : s.WindowKept t) (h' : t.WindowKept u) : s.WindowKept u :=
  ⟨h.toFrontKept.trans h'.toFrontKept, h'.head.trans h.head, h'.entriesAvailable.trans h.entriesAvailable⟩

theorem State.WindowKept.inFlight (h : s.WindowKept t) : t.inFlight = s.inFlight := by
  rw [State.inFlight, h.cfg, h.entriesAvailable]
  rfl

theorem broadcast_windowKept (s : State) (b : Nat) (result : Int) : s.WindowKept (s.broadcast b result) := by
  refine ⟨broadcast_frontKept s b result, ?_, ?_⟩ <;>
  · unfold State.broadcast
    split <;> rfl

theorem writeResult_windowKept (h : writeResult s = .next t) : s.WindowKept t := by
  obtain ⟨-, rfl⟩ | ⟨b, rest, id, k, i, -, -, -, -, rfl⟩ := writeResult_cases h
  · exact .refl _
  · exact { broadcast_windowKept _ b _ with }

theorem executeStart_windowKept (h : executeStart s = .next t) : s.WindowKept t := by
  refine forEach_keeps (P := s.WindowKept) (fun id _ u v hu hv => ?_) (.refl s) h
  obtain ⟨-, rfl⟩ | ⟨-, b, k, i, -, -, -, rfl⟩ := dispatchStation_cases hv
  · exact hu
  · exact { hu with }

theorem executeAdvance_windowKept (h : executeAdvance s = .next t) : s.WindowKept t := by
  obtain ⟨cdbq, stamp, rfl⟩ := forEach_complete_frame h
  exact ⟨⟨rfl, rfl, rfl, rfl, rfl⟩, rfl, rfl⟩

/-- The phases after Issue keep the window. -/
theorem execute_windowKept (hstart : executeStart s = .next t) (hadvance : executeAdvance t = .next u) :
    s.WindowKept u :=
  (executeStart_windowKept hstart).trans (executeAdvance_windowKept hadvance)

/-! Issue proceeds -/

theorem legal_pickOrder_perm {c : Config} (h : c.Legal) : c.pickOrder.Perm c.stationOrder := by
  obtain ⟨-, -, -, -, -, -, -, -, -, -, -, -, -, -, hpick, -⟩ := h
  exact hpick

/-- With a free station of the group there is one to pick (R124). -/
theorem pickStation_of_free (h : Shape s) {id : StationId} (hid : id ∈ s.cfg.stationOrder)
    (hfree : (s.station id).busy = false) : ∃ id', s.pickStation id.group = some id' := by
  refine Option.isSome_iff_exists.mp (List.find?_isSome.mpr ⟨id, (legal_pickOrder_perm h.legal).mem_iff.mpr hid, ?_⟩)
  simp [State.freeIn, stationExists_of_mem h hid, hfree]

theorem exec_issues_of_free (h : MidCycle s) {i : Instr} (hroom : 0 < s.entriesAvailable)
    (hmore : s.pc < s.prog.length) {id : StationId} (hid : id ∈ s.cfg.stationOrder) (hgroup : id.group = groupOf i.kind)
    (hfree : (s.station id).busy = false) (he : exec i s = .next t) :
    ∃ id' q e, Issues s i.kind i.dest id' q e ∧ t = s.afterIssue i.dest id' q e := by
  obtain ⟨id', hpick⟩ := pickStation_of_free h.shape hid hfree
  have hbegin : beginIssue i.kind i.dest s ≠ none := by
    rw [beginIssue, ← hgroup, hpick]
    simp [hmore, hroom]
  obtain hstall | hmoved := (exec_outcome he).pc_cycle.1
  · exact absurd hstall hbegin
  · obtain rfl | hissues := exec_issues h he
    · omega
    · exact hissues

/-! A full ROB -/

/-- Write-Result makes no station busy. -/
theorem writeResult_station_free (h : MidCycle s) (hw : writeResult s = .next t) {id : StationId}
    (hfree : (s.station id).busy = false) : (t.station id).busy = false := by
  obtain rfl | ⟨b, id', i, rest, c, events, hwrites, rfl⟩ := writeResult_writes h hw
  · exact hfree
  · by_contra hbusy
    obtain ⟨-, hbefore⟩ := hwrites.station_before (id' := id) (c := c) (Bool.not_eq_false _ ▸ hbusy)
    simp [hbefore] at hfree

/-- With every entry in flight the tail is at the head. -/
theorem tail_of_full (h : PipelineInvariant s) (hfull : s.entriesAvailable = 0) : s.tail = s.head := by
  rw [h.queue.tailPlace, State.slot, State.inFlight, hfull, Nat.sub_zero, Nat.add_mod_right]
  exact Nat.mod_eq_of_lt h.shape.headRange

/-- Commit of a written head moves the head and frees one entry (R182). -/
theorem commit_frees (h : PipelineInvariant s) (hc : commit s = .next t)
    (hwritten : (s.entry s.head).state = .wroteResult) :
    t.head = (s.head + 1) % s.cfg.robSize ∧ t.entriesAvailable = s.entriesAvailable + 1 := by
  obtain ⟨hwait, -⟩ | ⟨-, i, -, ⟨-, rfl⟩ | ⟨-, -, r, -, rfl⟩⟩ := commit_cases hc
  · simp [h.commitReady_iff_written.mpr hwritten] at hwait
  · exact ⟨rfl, rfl⟩
  · rw [State.commitRegister, unrename_eq]
    exact ⟨rfl, rfl⟩

/-- An entry holds the same instruction after Execute-Start. -/
theorem executeStart_index_kind (h : MidCycle s) (he : executeStart s = .next t) (p : Nat) :
    (t.entry p).instructionIndex = (s.entry p).instructionIndex ∧ (t.entry p).kind = (s.entry p).kind := by
  have hscan := legal_scanOrder_perm h.shape.legal
  refine (forEach_keeps (P := fun u => (∃ visited, Dispatching s.cfg visited u) ∧
    (u.entry p).instructionIndex = (s.entry p).instructionIndex ∧ (u.entry p).kind = (s.entry p).kind)
    (fun id hid u v hu hv => ?_) ⟨⟨[], h, rfl, by simp⟩, rfl, rfl⟩ he).2
  obtain ⟨⟨visited, hdisp⟩, hindex, hkind⟩ := hu
  have hmem := hscan.mem_iff.mp hid
  refine ⟨⟨_, dispatchStation_dispatching hdisp hmem hv⟩, ?_⟩
  obtain ⟨-, rfl⟩ | ⟨b, i, lat, hdispatches, rfl⟩ :=
    dispatchStation_dispatches hdisp.inv (hdisp.cfg.symm ▸ hmem) hv
  · exact ⟨hindex, hkind⟩
  · have hsame := hdispatches.sameInstruction (lat := lat) p
    exact ⟨hsame.index.trans hindex, hsame.kind.trans hkind⟩

/-- What Issue finds when the head of a full ROB has committed in this cycle: one entry, at the old head (R101 (a)). -/
theorem CyclePhases.slot_freed {s1 s2 s3 s4 s5 : State} (hcycle : CyclePhases s s1 s2 s3 s4 s5)
    (h : PipelineInvariant s) (hfull : s.entriesAvailable = 0) (hwritten : (s.entry s.head).state = .wroteResult) :
    s2.pc = s.pc ∧ s2.tail = s.head ∧ s2.head = (s.head + 1) % s.cfg.robSize ∧ s2.entriesAvailable = 1 := by
  have h0 : PipelineInvariant s.clearEvents := h.withArch
  obtain ⟨hhead, havailable⟩ := commit_frees h0 hcycle.commit hwritten
  have hfront := (commit_frontKept hcycle.commit).trans (writeResult_frontKept hcycle.write)
  have hwindow := writeResult_windowKept hcycle.write
  refine ⟨hfront.pc, hfront.tail.trans (tail_of_full h0 hfull), hwindow.head.trans hhead, ?_⟩
  rw [hwindow.entriesAvailable, havailable]
  exact congrArg (· + 1) hfull

/-- A station that is free before a cycle is free when Issue looks for one. -/
theorem CyclePhases.station_free {s1 s2 s3 s4 s5 : State} (hcycle : CyclePhases s s1 s2 s3 s4 s5) {id : StationId}
    (hfree : (s.station id).busy = false) : (s2.station id).busy = false := by
  refine writeResult_station_free hcycle.mid1 hcycle.write ?_
  rw [station_of_rs (commit_keeps_execution hcycle.commit).1]
  exact hfree

/-- Settles O35: after the head's Commit one entry is free and the station is still free, so Issue takes both. -/
theorem fullRobReusesCommittedSlot : Obligations.FullRobReusesCommittedSlot := by
  intro s w i id h hfull hwritten hw hd hid hgroup hfree
  obtain ⟨t, ht⟩ := step_completes h
  obtain ⟨s1, s2, s3, s4, s5, hcycle, rfl⟩ := h.cyclePhases ht
  obtain ⟨hpc, htail, hhead, havailable⟩ := hcycle.slot_freed h hfull hwritten
  obtain ⟨hcfg, hfetch⟩ := fetch_before_issue hcycle.commit hcycle.write
  obtain ⟨hmore, -⟩ := List.getElem?_eq_some_iff.mp (hfetch.trans hw)
  have hexec : exec i s2 = .next s3 :=
    (issuePhase_of_instr (hfetch.trans hw) (hcfg ▸ hd)).symm.trans hcycle.issue
  obtain ⟨id', q, e, hissues, rfl⟩ :=
    exec_issues_of_free hcycle.mid2 (by omega) hmore (hcfg ▸ hid) hgroup (hcycle.station_free hfree) hexec
  have hkept := execute_windowKept hcycle.start hcycle.advance
  obtain ⟨hindex, hkind⟩ := executeStart_index_kind hcycle.mid3 hcycle.start s.head
  rw [← executeAdvance_entry hcycle.advance, ← htail, hissues.entry_after, if_pos rfl, htail] at hindex hkind
  have hhead' : s5.head = (s.head + 1) % s.cfg.robSize := hkept.head.trans hhead
  refine ⟨s5.tick, ht, ?pc, ?available, hhead', ?tail, ?index, ?kind⟩
  case pc => exact hkept.pc.trans (congrArg (· + 1) hpc)
  case available => exact hkept.entriesAvailable.trans (congrArg (· - 1) havailable)
  case tail =>
    refine (hkept.tail.trans ?_).trans hhead'.symm
    change (s2.tail + 1) % s2.cfg.robSize = _
    rw [htail, hcfg]
  case index => exact hindex.trans (hissues.live.index.trans (congrArg some hpc))
  case kind => exact hkind.trans hissues.entry_kind

end Sys2Proof.Machine
end

section
/-! PROOF. The tracker and the CDB queue over a cycle (R36, R37, R147 to R149, R155): what each phase adds and takes. -/

namespace Sys2Proof.Machine

variable {s t : State}

theorem commit_fu (h : commit s = .next t) : t.fu = s.fu := by
  obtain ⟨-, rfl⟩ | ⟨-, i, -, ⟨-, rfl⟩ | ⟨-, -, r, -, rfl⟩⟩ := commit_cases h
  · rfl
  · rfl
  · rw [State.commitRegister, unrename_eq]
    rfl

theorem broadcast_fu_cdbq (s : State) (b : Nat) (result : Int) :
    (s.broadcast b result).fu = s.fu ∧ (s.broadcast b result).cdbq = s.cdbq := by
  unfold State.broadcast
  split <;> exact ⟨rfl, rfl⟩

/-- Write-Result takes the front of the queue (R155). -/
theorem writeResult_fu_cdbq (h : writeResult s = .next t) : t.fu = s.fu ∧ t.cdbq = s.cdbq.tail := by
  obtain ⟨hq, rfl⟩ | ⟨b, rest, id, k, i, hq, -, -, -, rfl⟩ := writeResult_cases h
  · simp [hq]
  · rw [hq]
    exact broadcast_fu_cdbq _ b _

theorem IssueOutcome.fu_cdbq {k : Kind} {dest : Option RegIdx} (h : IssueOutcome k dest s t) :
    t.fu = s.fu ∧ t.cdbq = s.cdbq := by
  obtain ⟨-, rfl⟩ | ⟨id, s1, pool, rob, hb, rfl⟩ := h
  · exact ⟨rfl, rfl⟩
  · obtain ⟨-, -, -, rfl⟩ := beginIssue_cases hb
    rw [renameDest_eq]
    exact ⟨rfl, rfl⟩

theorem issuePhase_fu_cdbq (h : issuePhase s = .next t) : t.fu = s.fu ∧ t.cdbq = s.cdbq := by
  obtain ⟨-, rfl⟩ | ⟨w, i, -, -, he⟩ | ⟨w, why, -, -, rfl⟩ := issuePhase_cases h
  · exact ⟨rfl, rfl⟩
  · exact (exec_outcome he).fu_cdbq
  · exact ⟨rfl, rfl⟩

/-- What a dispatch adds to the tracker: records at their full latency (R142). -/
def State.DispatchedSince (s t : State) : Prop :=
  t.cfg = s.cfg ∧ t.cdbq = s.cdbq ∧
    ∃ new, t.fu = s.fu ++ new ∧ ∀ f ∈ new, ∃ k, f.remaining = latency s.cfg k

theorem executeStart_dispatchedSince (h : executeStart s = .next t) : s.DispatchedSince t := by
  refine forEach_keeps (P := s.DispatchedSince) (fun id _ u v hu hv => ?_) ⟨rfl, rfl, [], by simp, nofun⟩ h
  obtain ⟨-, rfl⟩ | ⟨-, b, k, i, -, -, -, rfl⟩ := dispatchStation_cases hv
  · exact hu
  · obtain ⟨hcfg, hq, new, hfu, hnew⟩ := hu
    refine ⟨hcfg, hq, new ++ [⟨id, i, latency u.cfg k⟩], ?_, fun f hf => ?_⟩
    · rw [← List.append_assoc, ← hfu]
      rfl
    · obtain hold | hlast := List.mem_append.mp hf
      · exact hnew f hold
      · rw [List.mem_singleton.mp hlast, ← hcfg]
        exact ⟨k, rfl⟩

/-- Execute-Advance keeps the records that still count, one lower (R147, R148). -/
theorem executeAdvance_fu (h : executeAdvance s = .next t) :
    t.fu = (s.fu.map FuRecord.decrement).filter fun f => !f.finished := by
  obtain ⟨cdbq, stamp, rfl⟩ := forEach_complete_frame h
  rfl

theorem mem_executeAdvance_fu (h : executeAdvance s = .next t) {f : FuRecord} :
    f ∈ t.fu ↔ (∃ g ∈ s.fu, g.decrement = f) ∧ 1 ≤ f.remaining := by
  rw [executeAdvance_fu h, List.mem_filter, FuRecord.not_finished_iff, List.mem_map]

/-- Execute-Advance adds to the back of the queue (R148). -/
theorem executeAdvance_cdbq (h : executeAdvance s = .next t) : ∃ new, t.cdbq = s.cdbq ++ new := by
  have h : forEach completeRecord _ (s.setFu _) = .next t := h
  refine forEach_keeps (P := fun u => ∃ new, u.cdbq = s.cdbq ++ new) (fun f _ u v hu hv => ?_) ?_ h
  case refine_2 => exact ⟨[], (List.append_nil _).symm⟩
  obtain ⟨new, hnew⟩ := hu
  obtain ⟨b, -, rfl⟩ := completeRecord_cases hv
  refine ⟨new ++ [b], ?_⟩
  rw [← List.append_assoc, ← hnew]
  rfl

/-- A step takes at most the front of the queue, and adds at its back. -/
theorem step_cdbq (h : step s = .next t) : ∃ new, t.cdbq = s.cdbq.tail ++ new := by
  obtain ⟨s1, s2, s3, s4, s5, hcommit, hwrite, hissue, hstart, hadvance, rfl⟩ := runCycle_cases h
  obtain ⟨-, hdispatch, -⟩ := executeStart_dispatchedSince hstart
  obtain ⟨new, hnew⟩ := executeAdvance_cdbq hadvance
  refine ⟨new, hnew.trans (congrArg (· ++ new) ?_)⟩
  calc s4.cdbq
    _ = s3.cdbq := hdispatch
    _ = s2.cdbq := (issuePhase_fu_cdbq hissue).2
    _ = s1.cdbq.tail := (writeResult_fu_cdbq hwrite).2
    _ = s.cdbq.tail := congrArg List.tail (commit_keeps_execution hcommit).2

/-- The records that a cycle's Execute-Advance counts down: the old ones, then those at full latency. -/
theorem CyclePhases.fu_before_advance {s1 s2 s3 s4 s5 : State} (h : CyclePhases s s1 s2 s3 s4 s5) :
    ∃ new, s4.fu = s.fu ++ new ∧ ∀ f ∈ new, ∃ k, f.remaining = latency s.cfg k := by
  obtain ⟨-, -, new, hfu, hnew⟩ := executeStart_dispatchedSince h.start
  have hcfg : s3.cfg = s.cfg :=
    (issuePhase_storeKept h.issue).cfg.trans ((commit_frontKept h.commit).trans (writeResult_frontKept h.write)).cfg
  have hold : s3.fu = s.fu :=
    calc s3.fu
      _ = s2.fu := (issuePhase_fu_cdbq h.issue).1
      _ = s1.fu := (writeResult_fu_cdbq h.write).1
      _ = s.clearEvents.fu := commit_fu h.commit
  rw [hcfg] at hnew
  exact ⟨new, hfu.trans (congrArg (· ++ new) hold), hnew⟩

/-! The stamp of a completed record (R148) -/

theorem stampOf_setStamp_isSome {x : State} {i n : Nat} (h : (x.stampOf n).executionComplete.isSome = true) :
    ((x.setStamp i fun y => { y with executionComplete := some x.cycle }).stampOf n).executionComplete.isSome = true :=
  by
  rcases Nat.lt_or_ge i x.stamp.length with hlt | hge
  · rw [stampOf_setStamp _ hlt]
    split
    · rfl
    · exact h
  · rw [State.stampOf, setStamp_stamp, List.set_eq_of_length_le hge]
    exact h

theorem forEach_complete_keeps_stamped {l : List FuRecord} {n : Nat} (hd : forEach completeRecord l s = .next t)
    (h : (s.stampOf n).executionComplete.isSome = true) : (t.stampOf n).executionComplete.isSome = true := by
  refine forEach_keeps (P := fun u => (u.stampOf n).executionComplete.isSome = true) (fun f _ u v hu hv => ?_) h hd
  obtain ⟨b, -, rfl⟩ := completeRecord_cases hv
  exact stampOf_setStamp_isSome hu

theorem forEach_complete_stamped {l : List FuRecord} {f : FuRecord} (hd : forEach completeRecord l s = .next t)
    (hf : f ∈ l) (hlen : f.instructionIndex < s.stamp.length) :
    (t.stampOf f.instructionIndex).executionComplete.isSome = true := by
  induction l generalizing s with
  | nil => cases hf
  | cons g l ih =>
    obtain ⟨u, hu, hrest⟩ := andThen_next hd
    obtain ⟨b, -, rfl⟩ := completeRecord_cases hu
    obtain rfl | hf := List.mem_cons.mp hf
    · refine forEach_complete_keeps_stamped hrest ?_
      have hset := stampOf_setStamp_same s (fun x => { x with executionComplete := some s.cycle }) hlen
      exact congrArg (fun y => y.executionComplete.isSome) hset
    · refine ih hrest hf ?_
      simpa [State.setStamp] using hlen

/-- A record that counts down to 0 gets its completion stamp. -/
theorem executeAdvance_stamped (h : executeAdvance s = .next t) {f : FuRecord} (hf : f ∈ s.fu) (hlast : f.remaining ≤ 1)
    (hlen : f.instructionIndex < s.stamp.length) : (t.stampOf f.instructionIndex).executionComplete.isSome = true := by
  have h : forEach completeRecord _ (s.setFu _) = .next t := h
  refine forEach_complete_stamped (f := f.decrement) h ?_ hlen
  rw [(visitOrder_perm _ _).mem_iff, List.mem_filter]
  refine ⟨List.mem_map_of_mem hf, ?_⟩
  exact decide_eq_true (Int.sub_nonpos_of_le hlast)

end Sys2Proof.Machine
end

section
/-! PROOF. Every program ends (R110). At the end of a cycle the oldest instruction in flight is dispatched, so it
commits within its remaining latency and its turn in the CDB queue; then the next one is the oldest. -/

namespace Sys2Proof.Machine

variable {s t : State} {m n : Nat}

/-! The oldest instruction in flight -/

/-- The number of instructions that have committed, which is the index of the oldest one in flight (R50). -/
def State.committed (s : State) : Nat := s.pc - s.inFlight

/-- The oldest instruction in flight commits within `n` steps: it has written its result, or it stands in the CDB queue,
or its record counts down and the queue then holds at most `N_RS` elements (R55). -/
inductive State.HeadDue (s : State) (n : Nat) : Prop where
  | written (h : (s.entry s.head).state = .wroteResult) (hn : 1 ≤ n)
  | queued (i : Nat) (h : s.cdbq[i]? = some s.head) (hn : i + 2 ≤ n)
  | running (f : FuRecord) (hf : f ∈ s.fu) (hindex : f.instructionIndex = s.committed)
      (hn : f.remaining + s.cfg.stationCount + 1 ≤ n)

/-- Every record has fewer than `m` cycles left to count. -/
def State.RecordsBelow (s : State) (m : Nat) : Prop := ∀ f ∈ s.fu, f.remaining < m

theorem PipelineInvariant.headDue_of_queued (h : PipelineInvariant s) (hq : s.head ∈ s.cdbq)
    (hn : s.cfg.stationCount + 1 ≤ n) : s.HeadDue n := by
  obtain ⟨i, hi⟩ := List.getElem?_of_mem hq
  obtain ⟨hlt, -⟩ := List.getElem?_eq_some_iff.mp hi
  have hfits := h.executing_le
  exact .queued i hi (by omega)

/-- The head is live, and it is the oldest instruction in flight. -/
theorem PipelineInvariant.head_live (h : PipelineInvariant s) (hfly : 0 < s.inFlight) :
    (s.entry s.head).Live s.committed := by
  have hlive := h.queue.live 0 hfly
  rwa [slot_zero h.shape] at hlive

/-- At the end of a cycle the head is dispatched: a tag in its station would name an older instruction in flight. -/
theorem PipelineInvariant.head_not_issued (h : PipelineInvariant s) (hfly : 0 < s.inFlight) :
    (s.entry s.head).state ≠ .issued := by
  intro hissued
  obtain ⟨id, hid, hprod⟩ := h.stations.stationOf s.head h.shape.headRange (.inl hissued)
  obtain ⟨hbusy, hdest⟩ := producesInto_iff.mp hprod
  obtain ⟨-, -, hindex, -⟩ := h.stations.entry_pending hid hbusy hdest
  rw [(h.head_live hfly).index] at hindex
  have hnone {tag : Option Nat} (htag : s.TagOlder tag ((s.station id).instructionIndex.getD 0)) : tag = none := by
    by_contra hsome
    obtain ⟨p, rfl⟩ := Option.ne_none_iff_exists'.mp hsome
    obtain ⟨-, hpend, -, hage⟩ := htag p rfl
    obtain ⟨j, -, -, hlive⟩ := h.queue.place h.shape hpend.ne_empty
    rw [hlive.age_eq, hindex, Option.getD_some, State.committed] at hage
    omega
  obtain hj | hk := h.tracked.waiting id hid hbusy s.head hdest hissued
  · exact hj (hnone (h.operands.tagJ id hid hbusy))
  · exact hk (hnone (h.operands.tagK id hid hbusy))

theorem PipelineInvariant.headDue (h : PipelineInvariant s) (hfly : 0 < s.inFlight) (hm : 1 ≤ m)
    (hbelow : s.RecordsBelow m) : s.HeadDue (m + s.cfg.stationCount) := by
  obtain ⟨-, hnonempty, hhead, -⟩ := h.head_live hfly
  cases hst : (s.entry s.head).state with
  | empty => exact absurd hst hnonempty
  | issued => exact absurd hst (h.head_not_issued hfly)
  | wroteResult => exact .written hst (by omega)
  | executing =>
    obtain ⟨id, hid, hprod⟩ := h.stations.stationOf s.head h.shape.headRange (.inr hst)
    obtain ⟨hbusy, hdest⟩ := producesInto_iff.mp hprod
    obtain hrecord | hq := h.tracked.executing id hid hbusy s.head hdest hst
    · obtain ⟨f, hf, rfl⟩ := List.mem_map.mp hrecord
      obtain ⟨-, hindex, -⟩ := h.tracked.record f hf
      obtain ⟨-, -, hsame, -⟩ := h.stations.entry_pending hid hbusy hdest
      have hremaining := hbelow f hf
      refine .running f hf (Option.some.inj ?_) (by omega)
      rw [← hindex, hsame, hhead]
    · exact h.headDue_of_queued hq (by omega)

/-! The oldest instruction over a step -/

/-- `t` has the oldest instruction in flight of `s`. -/
structure State.OldestKept (s t : State) : Prop where
  head : t.head = s.head
  committed : t.committed = s.committed
  inFlight : s.inFlight ≤ t.inFlight

theorem State.OldestKept.trans {u : State} (h : s.OldestKept t) (h' : t.OldestKept u) : s.OldestKept u :=
  ⟨h'.head.trans h.head, h'.committed.trans h.committed, h.inFlight.trans h'.inFlight⟩

theorem State.WindowKept.oldestKept (h : s.WindowKept t) : s.OldestKept t :=
  ⟨h.head, by rw [State.committed, h.pc, h.inFlight, State.committed], h.inFlight.ge⟩

theorem issuePhase_oldestKept (h : MidCycle s) (hi : issuePhase s = .next t) : s.OldestKept t := by
  obtain ⟨-, rfl⟩ | ⟨w, i, -, -, he⟩ | ⟨w, why, -, -, rfl⟩ := issuePhase_cases hi
  · exact ⟨rfl, rfl, Nat.le_refl _⟩
  · obtain rfl | ⟨id, q, e, hissues, rfl⟩ := exec_issues h he
    · exact ⟨rfl, rfl, Nat.le_refl _⟩
    · refine ⟨rfl, ?_, hissues.inFlight_after ▸ Nat.le_succ _⟩
      rw [State.committed, hissues.inFlight_after]
      exact Nat.add_sub_add_right _ 1 _
  · exact ⟨rfl, rfl, Nat.le_refl _⟩

/-- After Commit no phase retires an instruction. -/
theorem CyclePhases.oldestKept {s1 s2 s3 s4 s5 : State} (h : CyclePhases s s1 s2 s3 s4 s5) : s1.OldestKept s5 :=
  ((writeResult_windowKept h.write).oldestKept.trans (issuePhase_oldestKept h.mid2 h.issue)).trans
    (execute_windowKept h.start h.advance).oldestKept

/-- Commit of a written head leaves the next instruction as the oldest. -/
theorem commit_committed (h : PipelineInvariant s) (hc : commit s = .next t)
    (hwritten : (s.entry s.head).state = .wroteResult) : t.committed = s.committed + 1 := by
  obtain ⟨hcfg, -, hpc, -, -⟩ := commit_frontKept hc
  obtain ⟨-, havailable⟩ := commit_frees h hc hwritten
  obtain ⟨hlt, -⟩ := (commitReady_iff s).mp (h.commitReady_iff_written.mpr hwritten)
  have hissued := h.queue.issued
  unfold State.committed State.inFlight at *
  rw [hcfg, hpc, havailable]
  omega

/-- A step commits the oldest instruction, or that has not written its result yet and stays the oldest. -/
theorem PipelineInvariant.step_oldest (h : PipelineInvariant s) (ht : step s = .next t) :
    t.committed = s.committed + 1 ∨ (s.entry s.head).state ≠ .wroteResult ∧ s.OldestKept t := by
  obtain ⟨s1, s2, s3, s4, s5, hcycle, rfl⟩ := h.cyclePhases ht
  have h0 : PipelineInvariant s.clearEvents := h.withArch
  have hkept := hcycle.oldestKept
  by_cases hwritten : (s.entry s.head).state = .wroteResult
  · have hcommitted : s1.committed = s.clearEvents.committed + 1 := commit_committed h0 hcycle.commit hwritten
    exact .inl (hkept.committed.trans hcommitted)
  · obtain ⟨-, rfl⟩ | ⟨hready, -⟩ := commit_cases hcycle.commit
    · exact .inr ⟨hwritten, { hkept with }⟩
    · exact absurd (h0.commitReady_iff_written.mp hready) hwritten

/-- The front of the queue is written in the step. -/
theorem PipelineInvariant.step_writes_front (h : PipelineInvariant s) (ht : step s = .next t) {b : Nat}
    {rest : List Nat} (hq : s.cdbq = b :: rest) : (t.entry b).state = .wroteResult := by
  obtain ⟨hlt, hst, -⟩ := h.tracked.queued b (hq ▸ List.mem_cons_self)
  obtain ⟨id, hid, hprod⟩ := h.stations.stationOf b hlt (.inr hst)
  obtain ⟨hbusy, hdest⟩ := producesInto_iff.mp hprod
  obtain ⟨b', k, -, hb', hop, -⟩ := h.midCycle.station_complete hid hbusy
  obtain ⟨i, hentry⟩ := step_entry_front h ht hq hid hdest hop
  rw [hentry]
  rfl

/-- A record that counts down to 0 has its completion stamp after the step. -/
theorem PipelineInvariant.step_stamps_completed (h : PipelineInvariant s) (ht : step s = .next t) {f : FuRecord}
    (hf : f ∈ s.fu) (hlast : f.remaining ≤ 1) : (t.stampOf f.instructionIndex).executionComplete.isSome = true := by
  obtain ⟨s1, s2, s3, s4, s5, hcycle, rfl⟩ := h.cyclePhases ht
  obtain ⟨new, hfu, -⟩ := hcycle.fu_before_advance
  have hmem : f ∈ s4.fu := hfu ▸ List.mem_append_left new hf
  refine executeAdvance_stamped hcycle.advance hmem hlast ?_
  obtain ⟨⟨hid, hbusy, -⟩, hindex⟩ := hcycle.mid4.tracked.record f hmem
  obtain ⟨b, -, -, hdest, -, -⟩ := hcycle.mid4.station_complete hid hbusy
  obtain ⟨j, hj, -, hi, -⟩ := hcycle.mid4.station_place hid hbusy hdest hindex
  rw [hi, hcycle.mid4.shape.stampLength]
  exact (hcycle.mid4.queue.index_lt_pc hj).trans_le hcycle.mid4.shape.pcRange

/-- A record that does not count down to 0 stays in the tracker (R147). -/
theorem PipelineInvariant.step_counts_down (h : PipelineInvariant s) (ht : step s = .next t) {f : FuRecord}
    (hf : f ∈ s.fu) (hmore : 1 < f.remaining) : f.decrement ∈ t.fu := by
  obtain ⟨s1, s2, s3, s4, s5, hcycle, rfl⟩ := h.cyclePhases ht
  obtain ⟨new, hfu, -⟩ := hcycle.fu_before_advance
  refine (mem_executeAdvance_fu hcycle.advance).mpr ⟨⟨f, hfu ▸ List.mem_append_left new hf, rfl⟩, ?_⟩
  exact Int.le_sub_one_of_lt hmore

/-- After a step every record is below the largest latency: an old one was, and a new one has counted once. -/
theorem PipelineInvariant.step_recordsBelow (h : PipelineInvariant s) (ht : step s = .next t)
    (hlat : ∀ k, latency s.cfg k ≤ m) (hbelow : s.RecordsBelow m) : t.RecordsBelow m := by
  obtain ⟨s1, s2, s3, s4, s5, hcycle, rfl⟩ := h.cyclePhases ht
  obtain ⟨new, hfu, hnew⟩ := hcycle.fu_before_advance
  intro f hf
  obtain ⟨⟨g, hg, rfl⟩, -⟩ := (mem_executeAdvance_fu hcycle.advance).mp hf
  refine Int.sub_one_lt_of_le ?_
  rw [hfu] at hg
  obtain hold | hadded := List.mem_append.mp hg
  · exact (hbelow g hold).le
  · obtain ⟨k, hk⟩ := hnew g hadded
    exact hk ▸ hlat k

/-- The completed instruction at the head waits in the queue, or has written its result (R38). -/
theorem PipelineInvariant.head_of_completed (h : PipelineInvariant s) (hfly : 0 < s.inFlight)
    (hstamp : (s.stampOf s.committed).executionComplete.isSome = true) :
    (s.entry s.head).state = .wroteResult ∨ s.head ∈ s.cdbq := by
  obtain ⟨-, hcomplete, -⟩ := h.stamps.flying 0 hfly
  rw [slot_zero h.shape] at hcomplete
  exact hcomplete.mp hstamp

/-- The oldest instruction in flight comes one step closer to its commit, or commits. -/
theorem PipelineInvariant.step_headDue (h : PipelineInvariant s) (hfly : 0 < s.inFlight) (ht : step s = .next t)
    (hkept : s.OldestKept t) (hwritten : (s.entry s.head).state ≠ .wroteResult) (hdue : s.HeadDue (n + 1)) :
    t.HeadDue n := by
  have hinv := runCycle_keeps_invariant h ht
  obtain ⟨-, hcfg⟩ := stepKeepsProgramAndConfiguration s t ht
  cases hdue with
  | written hst => exact absurd hst hwritten
  | queued i hi hn =>
    cases i with
    | zero =>
      obtain ⟨rest, hq⟩ := List.head?_eq_some_iff.mp (List.head?_eq_getElem?.trans hi)
      exact .written (hkept.head ▸ h.step_writes_front ht hq) (by omega)
    | succ i =>
      obtain ⟨new, hq⟩ := step_cdbq ht
      have htail : s.cdbq.tail[i]? = some s.head := List.getElem?_tail.trans hi
      refine .queued i ?_ (by omega)
      rw [hq, hkept.head, List.getElem?_append_left (List.getElem?_eq_some_iff.mp htail).1, htail]
  | running f hf hindex hn =>
    by_cases hlast : f.remaining ≤ 1
    · have hstamp := h.step_stamps_completed ht hf hlast
      rw [hindex, ← hkept.committed] at hstamp
      obtain hst | hq := hinv.head_of_completed (hfly.trans_le hkept.inFlight) hstamp
      · obtain ⟨-, -, hcount⟩ := h.tracked.record f hf
        exact .written hst (by omega)
      · obtain ⟨-, -, hcount⟩ := h.tracked.record f hf
        exact hinv.headDue_of_queued hq (by rw [hcfg]; omega)
    · refine .running f.decrement (h.step_counts_down ht hf (by omega)) (hindex.trans hkept.committed.symm) ?_
      rw [hcfg]
      simp only [FuRecord.decrement]
      omega

/-! What holds at the end of a cycle -/

/-- Every instruction of the program decodes (R90). -/
def State.Decodable (s : State) : Prop := ∀ w ∈ s.prog, ∃ i, decode s.cfg.offw w = .instr i

theorem legal_groupSize_pos {c : Config} (h : c.Legal) (g : StationGroup) : 0 < c.groupSize g := by
  obtain ⟨-, -, -, -, hadd, hmul, hload, hstore, -⟩ := h
  cases g <;> assumption

/-- Issue never leaves the machine empty while an instruction remains: then every entry and station is free (R120). -/
theorem issuePhase_fills (h : MidCycle s) (hdec : s.Decodable) (hi : issuePhase s = .next t) :
    0 < t.inFlight ∨ t.pc = t.prog.length := by
  rcases Nat.eq_zero_or_pos s.inFlight with hnone | hfly
  · obtain ⟨hfetch, rfl⟩ | ⟨w, i, hw, -, he⟩ | ⟨w, why, hw, hreserved, -⟩ := issuePhase_cases hi
    · exact .inr (Nat.le_antisymm h.shape.pcRange (List.getElem?_eq_none_iff.mp hfetch))
    · obtain ⟨hmore, -⟩ := List.getElem?_eq_some_iff.mp hw
      have hid : ⟨groupOf i.kind, 0⟩ ∈ s.cfg.stationOrder := mem_stationOrder.mpr (legal_groupSize_pos h.shape.legal _)
      have hroom : 0 < s.entriesAvailable := by
        rw [(inFlight_eq_zero_iff h.shape).mp hnone]
        exact h.shape.robSize_pos
      obtain ⟨id, q, e, hissues, rfl⟩ :=
        exec_issues_of_free h hroom hmore hid rfl (h.station_of_drained hnone hid) he
      exact .inl (hissues.inFlight_after ▸ Nat.succ_pos _)
    · obtain ⟨i, hinstr⟩ := hdec w (List.mem_of_getElem? hw)
      rw [hreserved] at hinstr
      cases hinstr
  · exact .inl (hfly.trans_le (issuePhase_oldestKept h hi).inFlight)

theorem PipelineInvariant.step_fills (h : PipelineInvariant s) (hdec : s.Decodable) (ht : step s = .next t) :
    0 < t.inFlight ∨ t.pc = t.prog.length := by
  obtain ⟨s1, s2, s3, s4, s5, hcycle, rfl⟩ := h.cyclePhases ht
  obtain ⟨hcfg, hprog, -, -, -⟩ := (commit_frontKept hcycle.commit).trans (writeResult_frontKept hcycle.write)
  have hdec2 : s2.Decodable := by
    rw [State.Decodable, hcfg, hprog]
    exact hdec
  have hkept := execute_windowKept hcycle.start hcycle.advance
  refine (issuePhase_fills hcycle.mid2 hdec2 hcycle.issue).imp (fun hfly => ?_) fun hpc => ?_
  · exact hfly.trans_eq hkept.inFlight.symm
  · exact hkept.pc.trans (hpc.trans (congrArg List.length hkept.prog.symm))

/-- What every state of a run of R110 meets: the invariant, decodable words, and latencies of at most `m` still to
count. -/
structure RunsWithin (m : Nat) (s : State) : Prop where
  inv : PipelineInvariant s
  decodable : s.Decodable
  latency : ∀ k, latency s.cfg k ≤ m
  below : s.RecordsBelow m

theorem RunsWithin.next (h : RunsWithin m s) (ht : step s = .next t) : RunsWithin m t := by
  obtain ⟨hprog, hcfg⟩ := stepKeepsProgramAndConfiguration s t ht
  refine ⟨runCycle_keeps_invariant h.inv ht, ?_, hcfg ▸ h.latency, h.inv.step_recordsBelow ht h.latency h.below⟩
  rw [State.Decodable, hprog, hcfg]
  exact h.decodable

theorem resetWith_runsWithin {c : Config} {program : List InstrWord} (hc : c.Legal)
    (hlat : ∀ k, Machine.latency c k ≤ m) (hdec : ∀ w ∈ program, ∃ i, decode c.offw w = .instr i) :
    RunsWithin m (State.resetWith c program) :=
  ⟨resetWith_invariant hc, hdec, hlat, nofun⟩

theorem RunsWithin.latency_pos (h : RunsWithin m s) : 1 ≤ m := by
  obtain ⟨-, -, -, -, -, -, -, -, hadd, -⟩ := h.inv.shape.legal
  have hle : s.cfg.latAdd ≤ m := h.latency .add
  omega

/-! The bound -/

/-- The steps that R110 grants the instructions from the `k`-th on: `m + N_RS` each. -/
def State.grant (s : State) (m k : Nat) : Nat := (s.prog.length - k) * (m + s.cfg.stationCount)

theorem grant_eq_add {k : Nat} (h : k < s.prog.length) :
    s.grant m k = m + s.cfg.stationCount + s.grant m (k + 1) := by
  rw [State.grant, State.grant, show s.prog.length - k = s.prog.length - (k + 1) + 1 by omega, Nat.succ_mul,
    Nat.add_comm]

/-- The run is done, or the oldest instruction in flight and those after it commit within `n` steps. -/
def State.EndsWithin (s : State) (m n : Nat) : Prop :=
  s.done = true ∨ 0 < s.inFlight ∧ ∃ d, s.HeadDue d ∧ d + s.grant m (s.committed + 1) ≤ n

theorem RobIsQueue.committed_lt (h : RobIsQueue s) (hshape : Shape s) (hfly : 0 < s.inFlight) :
    s.committed < s.prog.length :=
  (h.index_lt_pc hfly).trans_le hshape.pcRange

/-- Once the instructions before have committed, those in flight and those to come need what R110 grants them. -/
theorem RunsWithin.endsWithin (h : RunsWithin m s) (hfilled : 0 < s.inFlight ∨ s.pc = s.prog.length)
    (hn : s.grant m s.committed ≤ n) : s.EndsWithin m n := by
  rcases Nat.eq_zero_or_pos s.inFlight with hnone | hfly
  · exact .inl (h.inv.done_of_drained hnone (hfilled.resolve_left (by omega)))
  · refine .inr ⟨hfly, _, h.inv.headDue hfly h.latency_pos h.below, ?_⟩
    rwa [← grant_eq_add (h.inv.queue.committed_lt h.inv.shape hfly)]

theorem grant_of_step (ht : step s = .next t) (k : Nat) : t.grant m k = s.grant m k := by
  obtain ⟨hprog, hcfg⟩ := stepKeepsProgramAndConfiguration s t ht
  rw [State.grant, hprog, hcfg, State.grant]

theorem PipelineInvariant.headDue_pos (h : PipelineInvariant s) (hdue : s.HeadDue n) : 0 < n := by
  cases hdue with
  | written _ hn => exact hn
  | queued i _ hn => omega
  | running f hf _ hn =>
    obtain ⟨-, -, hcount⟩ := h.tracked.record f hf
    omega

/-- A step before the end uses one of the granted steps. -/
theorem RunsWithin.step_endsWithin (h : RunsWithin m s) (ht : step s = .next t) (hnot : s.done ≠ true)
    (hends : s.EndsWithin m (n + 1)) : t.EndsWithin m n := by
  obtain hdone | ⟨hfly, d, hdue, hd⟩ := hends
  · exact absurd hdone hnot
  · have hpos := h.inv.headDue_pos hdue
    obtain hcommitted | ⟨hwritten, hkept⟩ := h.inv.step_oldest ht
    · refine (h.next ht).endsWithin (h.inv.step_fills h.decodable ht) ?_
      rw [grant_of_step ht, hcommitted]
      omega
    · obtain ⟨d, rfl⟩ := Nat.exists_eq_add_of_lt hpos
      rw [Nat.zero_add] at hdue hd
      refine .inr ⟨hfly.trans_le hkept.inFlight, d, h.inv.step_headDue hfly ht hkept hwritten hdue, ?_⟩
      rw [grant_of_step ht, hkept.committed]
      omega

theorem run_succ_of_step {M : Host.Core} {x y : M.State} (h : M.step x = .next y) : M.run (n + 1) x = M.run n y := by
  rw [Host.Core.run, h]

theorem RunsWithin.run_ends (h : RunsWithin m s) (hends : s.EndsWithin m n) :
    ∃ k ≤ n, ∃ t : State, Host.Core.run Sys2Proof.core k s = .next t ∧ t.done = true := by
  induction n generalizing s with
  | zero =>
    obtain hdone | ⟨-, d, hdue, hd⟩ := hends
    · exact ⟨0, Nat.le_refl _, s, rfl, hdone⟩
    · have hpos := h.inv.headDue_pos hdue
      omega
  | succ n ih =>
    by_cases hdone : s.done = true
    · exact ⟨0, Nat.zero_le _, s, rfl, hdone⟩
    · obtain ⟨t, ht⟩ := step_completes h.inv
      obtain ⟨k, hk, u, hrun, hu⟩ := ih (h.next ht) (h.step_endsWithin ht hdone hends)
      exact ⟨k + 1, Nat.succ_le_succ hk, u, (run_succ_of_step (M := Sys2Proof.core) ht).trans hrun, hu⟩

/-- Settles O51: the first step issues the first instruction, and each instruction then commits within its granted steps
after the one before it. -/
theorem everyProgramTerminates : Obligations.EveryProgramTerminates := by
  intro c program m hc hlat hdec
  have h := resetWith_runsWithin (m := m) hc hlat hdec
  obtain ⟨t, ht⟩ := step_completes h.inv
  have hgrant : t.grant m t.committed ≤ program.length * (m + c.stationCount) := by
    rw [grant_of_step ht]
    exact Nat.mul_le_mul_right _ (Nat.sub_le _ _)
  obtain ⟨k, hk, u, hrun, hu⟩ := (h.next ht).run_ends ((h.next ht).endsWithin (h.inv.step_fills h.decodable ht) hgrant)
  exact ⟨k + 1, by omega, u, (run_succ_of_step (M := Sys2Proof.core) ht).trans hrun, hu⟩

end Sys2Proof.Machine
end

section
/-! PROOF. Issue from every state, with no invariant assumed (R120 to R132): it stalls, or leaves the state that
`State.afterIssue` says. -/

namespace Sys2Proof.Machine

variable {s t : State} {k : Kind} {dest : Option RegIdx} {id : StationId}

/-! The precondition (R120, R121) -/

theorem beginIssue_of_canIssue (h : s.canIssue (groupOf k) id) : beginIssue k dest s =
    some (id, (s.allocateEntry k dest).setStation id ((s.station id).occupy k s.pc s.tail)) := by
  obtain ⟨hmore, hroom, hpick⟩ := h
  rw [beginIssue, hpick]
  exact if_pos ⟨hmore, hroom⟩

theorem beginIssue_of_not_canIssue (h : ∀ id, ¬ s.canIssue (groupOf k) id) : beginIssue k dest s = none := by
  refine Option.eq_none_iff_forall_ne_some.mpr fun ⟨id, s1⟩ hb => ?_
  obtain ⟨hpick, hmore, hroom, -⟩ := beginIssue_cases hb
  exact h id ⟨hmore, hroom, hpick⟩

theorem issueArith_of_stall {rd rs1 rs2 : RegIdx} (h : beginIssue k (some rd) s = none) :
    issueArith k rd rs1 rs2 s = .next s := by
  rw [issueArith, h]

theorem exec_of_stall {i : Instr} (h : beginIssue i.kind i.dest s = none) : exec i s = .next s := by
  cases i with
  | add rd rs1 rs2 => exact issueArith_of_stall h
  | sub rd rs1 rs2 => exact issueArith_of_stall h
  | mul rd rs1 rs2 => exact issueArith_of_stall h
  | div rd rs1 rs2 => exact issueArith_of_stall h
  | load rd offset base =>
    change beginIssue .load (some rd) s = none at h
    change issueLoad rd offset base s = .next s
    rw [issueLoad, h]
  | store rsrc offset base =>
    change beginIssue .store none s = none at h
    change issueStore rsrc offset base s = .next s
    rw [issueStore, h]

/-- Settles O14: each of the three causes leaves no station with which Issue can begin. -/
theorem structuralStallChangesNothing : Obligations.StructuralStallChangesNothing := by
  intro i s hstall
  refine exec_of_stall (beginIssue_of_not_canIssue fun id hcan => ?_)
  obtain ⟨hmore, hroom, hpick⟩ := hcan
  obtain hend | hfull | hbusy := hstall
  · omega
  · omega
  · obtain ⟨hmem, hgroup, hexists, hfree⟩ := pickStation_spec hpick
    exact Bool.false_ne_true (hfree.symm.trans (hbusy id hmem hgroup (of_decide_eq_true hexists)))

/-! The station (R124) -/

theorem freeIn_iff {g : StationGroup} : s.freeIn g id = true ↔
    id.group = g ∧ id.index < (s.rs.group id.group).length ∧ (s.station id).busy = false := by
  simp [State.freeIn, State.stationExists, and_assoc]

/-- A search for a station of one group goes through that group by rising index. -/
theorem find?_stationOrder {c : Config} {g : StationGroup} {p : StationId → Bool}
    (hp : ∀ id, p id = true → id.group = g) :
    c.stationOrder.find? p = ((List.range (c.groupSize g)).find? fun n => p ⟨g, n⟩).map (StationId.mk g) := by
  have hother : ∀ g' ≠ g, ∀ n, ((List.range n).map (StationId.mk g')).find? p = none := by
    intro g' hne n
    refine List.find?_eq_none.mpr fun id hid hpid => hne ?_
    obtain ⟨m, -, rfl⟩ := List.mem_map.mp hid
    exact hp _ hpid
  have hsame : ∀ n, ((List.range n).map (StationId.mk g)).find? p =
      ((List.range n).find? fun m => p ⟨g, m⟩).map (StationId.mk g) := fun n => List.find?_map ..
  cases g <;> simp [Config.stationOrder, orderedStations, Config.groupSize, List.find?_append, hother, hsame]

/-- Settles O15: the search of the pick order is a search of the group by rising index. -/
theorem issueTakesLowestFreeStation : Obligations.IssueTakesLowestFreeStation := by
  intro s g id horder hlength
  have hfree : ∀ n, s.freeIn g ⟨g, n⟩ = true ↔ n < s.cfg.groupSize g ∧ (s.station ⟨g, n⟩).busy = false := by
    intro n
    rw [freeIn_iff, hlength]
    exact and_iff_right rfl
  have hgroup : ∀ id, s.freeIn g id = true → id.group = g := fun id hid => (freeIn_iff.mp hid).left
  rw [State.pickStation, horder, find?_stationOrder hgroup]
  simp only [Option.map_eq_some_iff, List.find?_range_eq_some, hfree, List.mem_range]
  constructor
  · rintro ⟨n, ⟨⟨hn, hidle⟩, -, hbelow⟩, rfl⟩
    refine ⟨rfl, hn, hidle, fun m hm => ?_⟩
    have hnot : ¬ s.freeIn g ⟨g, m⟩ = true := by simpa using hbelow m hm
    rw [hfree, not_and] at hnot
    simpa using hnot (Nat.lt_trans hm hn)
  · obtain ⟨g', n⟩ := id
    rintro ⟨rfl, hn, hidle, hbelow⟩
    refine ⟨n, ⟨⟨hn, hidle⟩, hn, fun m hm => ?_⟩, rfl⟩
    simp [State.freeIn, hbelow m hm]

/-! The operands (R126) -/

theorem forwards_iff {e : RobEntry} :
    e.forwards = true ↔ e.busy = true ∧ e.state = .wroteResult ∧ e.valueReady = true := by
  simp [RobEntry.forwards, and_assoc]

theorem station_begun (hexists : s.stationExists id = true) (q : Station) :
    ((s.allocateEntry k dest).setStation id q).station id = q :=
  station_setStation_same (s.allocateEntry k dest) q hexists

/-- Capture during Issue reads the operand of the state before: the slot just taken is nobody's producer (R45, R132). -/
theorem capture_begun_of_readable {r : RegIdx} (h : s.readable r) (q : Station) :
    capture ((s.allocateEntry k dest).setStation id q) r = some (s.operand r) := by
  have hrename : ((s.allocateEntry k dest).setStation id q).rename r = s.rename r := rfl
  have hreg : ((s.allocateEntry k dest).setStation id q).reg r = s.reg r := rfl
  rw [capture, State.operand, hrename, hreg]
  cases hbusy : (s.rename r).busy
  · rfl
  · obtain ⟨hsome, hne⟩ := h hbusy
    obtain ⟨p, hp⟩ := Option.ne_none_iff_exists'.mp hsome
    have hentry : ((s.allocateEntry k dest).setStation id q).entry p = s.entry p :=
      entry_setEntry_other s _ fun heq => hne (hp.trans (congrArg some heq))
    simp only [hp, hentry, forwards_iff, Option.getD_some, apply_ite some, Bool.true_eq_false, if_true, if_false]

/-! What Issue leaves (R122 to R131) -/

/-- A STORE's entry when the station holds `q`: data that is known goes there (R129). -/
def RobEntry.withKnownData (e : RobEntry) (q : Station) : RobEntry :=
  if q.qj = none then { e with value := q.vj, valueReady := true } else e

theorem setEntry_entry (s : State) (p : Nat) : s.setEntry p (s.entry p) = s := by
  have hset : s.rob.set p (s.entry p) = s.rob := by
    by_cases hp : p < s.rob.length
    · simp [State.entry, hp]
    · exact List.set_eq_of_length_le (Nat.le_of_not_lt hp)
  rw [State.setEntry, hset]

theorem storeDataAtIssue_eq_setEntry (s : State) (b : Nat) (q : Station) :
    s.storeDataAtIssue b q = s.setEntry b ((s.entry b).withKnownData q) := by
  unfold State.storeDataAtIssue RobEntry.withKnownData
  split
  · rfl
  · rw [setEntry_entry]

/-- Issue of a STORE changes the tables as every Issue does, with its data in the entry it took. -/
theorem issueStore_afterIssue (q0 q : Station) :
    ((((s.allocateEntry .store none).setStation id q0).setStation id q).storeDataAtIssue s.tail q).advancePc =
      s.afterIssue none id q (((s.allocateEntry .store none).entry s.tail).withKnownData q) := by
  have hrob : (s.rob.set s.tail (issuedEntry .store none s.pc)).set s.tail
      (((s.allocateEntry .store none).entry s.tail).withKnownData q) =
      s.rob.set s.tail (((s.allocateEntry .store none).entry s.tail).withKnownData q) := List.set_set ..
  rw [setStation_setStation, storeDataAtIssue_eq_setEntry]
  unfold State.afterIssue
  rw [← hrob]
  rfl

theorem issueArith_afterIssue {rd rs1 rs2 : RegIdx} (h : issueArith k rd rs1 rs2 s = .next t) :
    t = s ∨ ∃ id q e, s.pickStation (groupOf k) = some id ∧ t = s.afterIssue (some rd) id q e := by
  obtain ⟨-, rfl⟩ | ⟨id, s1, o1, o2, hb, -, -, rfl⟩ := issueArith_cases h
  · exact .inl rfl
  · obtain ⟨hpick, -, -, rfl⟩ := beginIssue_cases hb
    exact .inr ⟨id, _, _, hpick, issue_tables _ _⟩

/-- Issue stalls, or writes the tail slot and the picked station and moves on (R120 to R132). -/
theorem exec_afterIssue {i : Instr} (h : exec i s = .next t) :
    t = s ∨ ∃ id q e, s.pickStation (groupOf i.kind) = some id ∧ t = s.afterIssue i.dest id q e := by
  cases i with
  | add rd rs1 rs2 => exact issueArith_afterIssue h
  | sub rd rs1 rs2 => exact issueArith_afterIssue h
  | mul rd rs1 rs2 => exact issueArith_afterIssue h
  | div rd rs1 rs2 => exact issueArith_afterIssue h
  | load rd offset base =>
    obtain ⟨-, rfl⟩ | ⟨id, s1, o, hb, -, rfl⟩ := issueLoad_cases h
    · exact .inl rfl
    · obtain ⟨hpick, -, -, rfl⟩ := beginIssue_cases hb
      exact .inr ⟨id, _, _, hpick, issue_tables _ _⟩
  | store rsrc offset base =>
    obtain ⟨-, rfl⟩ | ⟨id, s1, od, ob, hb, -, -, rfl⟩ := issueStore_cases h
    · exact .inl rfl
    · obtain ⟨hpick, -, -, rfl⟩ := beginIssue_cases hb
      exact .inr ⟨id, _, _, hpick, issueStore_afterIssue _ _⟩

section afterIssue

variable (s) (dest) (id) (q : Station) (e : RobEntry)

theorem rename_afterIssue_other {r : RegIdx} (h : dest ≠ some r) :
    (s.afterIssue dest id q e).rename r = s.rename r := by
  cases dest with
  | none => rfl
  | some r' => exact rename_setRename_other s _ fun heq => h (congrArg some heq.symm)

theorem entry_afterIssue_other {p : Nat} (h : p ≠ s.tail) : (s.afterIssue dest id q e).entry p = s.entry p :=
  entry_setEntry_other s e h

theorem stampOf_afterIssue_other {n : Nat} (h : n ≠ s.pc) : (s.afterIssue dest id q e).stampOf n = s.stampOf n :=
  stampOf_setStamp_other s (fun x => { x with issue := some s.cycle }) h

theorem station_afterIssue_other {id' : StationId} (h : id' ≠ id) :
    (s.afterIssue dest id q e).station id' = s.station id' :=
  station_setStation_other s q h

end afterIssue

/-- Settles O16: a stall changes nothing, and `afterIssue` writes the places that the statement leaves out. -/
theorem issueFrame : Obligations.IssueFrame := by
  intro i s t h
  obtain rfl | ⟨id, q, e, hpick, rfl⟩ := exec_afterIssue h
  · exact ⟨rfl, rfl, rfl, rfl, rfl, rfl, rfl, rfl, rfl, fun _ => rfl, fun _ _ => rfl, fun _ _ => rfl, fun _ _ => rfl,
      fun _ _ => rfl⟩
  · refine ⟨rfl, rfl, rfl, rfl, rfl, rfl, rfl, rfl, rfl, fun _ => rfl,
      fun _ => rename_afterIssue_other s i.dest id q e, fun _ => entry_afterIssue_other s i.dest id q e,
      fun _ => stampOf_afterIssue_other s i.dest id q e, fun id' hne => station_afterIssue_other s i.dest id q e ?_⟩
    rintro rfl
    exact hne hpick

/-! Issue goes through -/

theorem State.canIssue.station_exists {g : StationGroup} (h : s.canIssue g id) : s.stationExists id = true := by
  obtain ⟨-, -, hpick⟩ := h
  obtain ⟨-, -, hexists, -⟩ := pickStation_spec hpick
  exact hexists

theorem issueArith_of_canIssue {rd rs1 rs2 : RegIdx} (h : s.canIssue (groupOf k) id) (h1 : s.readable rs1)
    (h2 : s.readable rs2) : issueArith k rd rs1 rs2 s = .next (s.afterIssue (some rd) id
      (((s.station id).occupy k s.pc s.tail).wireArith (s.operand rs1) (s.operand rs2))
      (issuedEntry k (some rd) s.pc)) := by
  rw [issueArith, beginIssue_of_canIssue h]
  dsimp only
  rw [capture_begun_of_readable h1, capture_begun_of_readable h2]
  dsimp only
  rw [station_begun h.station_exists, issue_tables]

/-- Settles O11: the four kinds have one Issue. -/
theorem arithmeticIssues : Obligations.ArithmeticIssues := by
  intro s rd rs1 rs2 id h1 h2
  exact ⟨fun h => ⟨issueArith_of_canIssue h h1 h2, issueArith_of_canIssue h h1 h2⟩,
    fun h => ⟨issueArith_of_canIssue h h1 h2, issueArith_of_canIssue h h1 h2⟩⟩

/-- Settles O12. -/
theorem loadIssues : Obligations.LoadIssues := by
  intro s rd offset base id h hbase
  change issueLoad rd offset base s = _
  rw [issueLoad, beginIssue_of_canIssue h]
  dsimp only
  rw [capture_begun_of_readable hbase]
  dsimp only
  rw [station_begun h.station_exists, issue_tables]
  rfl

/-- The entry of a STORE after Issue (R122, R129). -/
theorem issuedEntry_withKnownData (i : Nat) (q : Station) : (issuedEntry .store none i).withKnownData q =
    { issuedEntry .store none i with value := if q.qj = none then q.vj else 0, valueReady := q.qj.isNone } := by
  unfold RobEntry.withKnownData
  cases q.qj <;> rfl

/-- Settles O13: the entry at the tail is the one just taken, so the data known at Issue goes into it. -/
theorem storeIssues : Obligations.StoreIssues := by
  intro s rsrc offset base id h htail hdata hbase
  have hentry : (s.allocateEntry .store none).entry s.tail = issuedEntry .store none s.pc :=
    entry_setEntry_same s _ htail
  change issueStore rsrc offset base s = _
  rw [issueStore, beginIssue_of_canIssue h]
  dsimp only
  rw [capture_begun_of_readable hdata, capture_begun_of_readable hbase]
  dsimp only [State.renameDest]
  rw [station_begun h.station_exists, issueStore_afterIssue, hentry, issuedEntry_withKnownData]
  rfl

end Sys2Proof.Machine
end

section
/-! PROOF. A reserved word at `pc` (R133): Issue refuses it in every cycle, and the run does not end. -/

namespace Sys2Proof.Machine

variable {s t : State}

theorem issuePhase_of_reserved {w : InstrWord} {why : ReservedWhy} (hw : s.fetch = some w)
    (hd : decode s.cfg.offw w = .reserved why) : issuePhase s = .next (s.raise [.illegalKind s.pc]) := by
  rw [issuePhase, hw]
  dsimp only
  rw [hd]

/-! The phases after Issue raise no event -/

theorem executeStart_diagOut (h : executeStart s = .next t) : t.diagOut = s.diagOut := by
  refine forEach_keeps (P := fun u => u.diagOut = s.diagOut) (fun id _ u v hu hv => ?_) rfl h
  obtain ⟨-, rfl⟩ | ⟨-, b, k, i, -, -, -, rfl⟩ := dispatchStation_cases hv
  · exact hu
  · exact hu

theorem executeAdvance_diagOut (h : executeAdvance s = .next t) : t.diagOut = s.diagOut := by
  obtain ⟨cdbq, stamp, rfl⟩ := forEach_complete_frame h
  rfl

/-- A step with a reserved word at `pc` leaves `pc` and its event (R133). -/
theorem step_of_reserved {w : InstrWord} {why : ReservedWhy} (hw : s.fetch = some w)
    (hd : decode s.cfg.offw w = .reserved why) (h : step s = .next t) :
    t.pc = s.pc ∧ .illegalKind s.pc ∈ t.diagOut := by
  obtain ⟨s1, s2, s3, s4, s5, hcommit, hwrite, hissue, hstart, hadvance, rfl⟩ := runCycle_cases h
  obtain ⟨hcfg, hfetch⟩ := fetch_before_issue hcommit hwrite
  have hpc : s2.pc = s.pc := ((commit_frontKept hcommit).trans (writeResult_frontKept hwrite)).pc
  rw [issuePhase_of_reserved (hfetch.trans hw) (hcfg ▸ hd), hpc] at hissue
  obtain rfl : s2.raise [.illegalKind s.pc] = s3 := Host.Outcome.next.inj hissue
  constructor
  · exact ((executeStart_frontKept hstart).trans (executeAdvance_frontKept hadvance)).pc.trans hpc
  · have hevents : s5.diagOut = s2.diagOut ++ [.illegalKind s.pc] :=
      (executeAdvance_diagOut hadvance).trans (executeStart_diagOut hstart)
    change .illegalKind s.pc ∈ s5.diagOut
    rw [hevents]
    exact List.mem_append_right _ List.mem_cons_self

/-- Settles O10: `pc` stays before the end of the program. -/
theorem reservedWordIsRefusedForEver : Obligations.ReservedWordIsRefusedForEver := by
  intro s w why hw hd
  refine ⟨issuePhase_of_reserved hw hd, fun t ht => ?_⟩
  obtain ⟨hpc, hevent⟩ := step_of_reserved hw hd ht
  obtain ⟨hprog, -⟩ := stepKeepsProgramAndConfiguration s t ht
  obtain ⟨hlt, -⟩ := List.getElem?_eq_some_iff.mp hw
  refine ⟨hpc, hprog, hevent, Bool.eq_false_iff.mpr fun hdone => ?_⟩
  obtain ⟨-, -, -, -, hend⟩ := done_iff.mp hdone
  rw [hpc, hprog] at hend
  omega

end Sys2Proof.Machine
end

section
/-! PROOF. Execute-Advance as one equation (R147 to R149): the records it finishes and keeps, and what a walk over the
finished ones does to the CDB queue and the stamps, in whatever order it goes. -/

namespace Sys2Proof.Machine

variable {s : State} {l l' : List FuRecord}

/-- `f` with another remaining-cycle counter. Neither the order of the walk nor a completion reads the counter. -/
def FuRecord.mapRemaining (g : Int → Int) (f : FuRecord) : FuRecord := { f with remaining := g f.remaining }

/-- The records that one decrement takes to zero or below (R148). -/
def State.finishing (s : State) : List FuRecord := s.fu.filter fun f => decide (f.remaining ≤ 1)

/-- The records that still count after one decrement, one lower (R147). -/
def State.counting (s : State) : List FuRecord :=
  (s.fu.filter fun f => decide (1 < f.remaining)).map FuRecord.decrement

/-- The stamps after the completion of the records `l` in cycle `cycle` (R148). -/
def markCompleted (cycle : Nat) (l : List FuRecord) (stamps : List Stamps) : List Stamps :=
  stamps.mapIdx fun n x =>
    if ∃ f ∈ l, f.instructionIndex = n then { x with executionComplete := some cycle } else x

/-- `s` after the completion of the records `l` in this order (R148). -/
def State.completeAll (s : State) (l : List FuRecord) : State :=
  { s with
    cdbq := s.cdbq ++ l.filterMap fun f => (s.station f.rs).destRob
    stamp := markCompleted s.cycle l s.stamp }

/-- A sort by a key that is not the counter moves no record when the counters change. -/
theorem sort_mapRemaining {key : FuRecord → Nat} {g : Int → Int} (hkey : ∀ f, key (f.mapRemaining g) = key f)
    (l : List FuRecord) : (l.map (FuRecord.mapRemaining g)).insertionSort (fun f f' => key f ≤ key f') =
      (l.insertionSort fun f f' => key f ≤ key f').map (FuRecord.mapRemaining g) :=
  (List.map_insertionSort _ (fun f f' => key f ≤ key f') _ l fun f _ f' _ => by rw [hkey, hkey]).symm

theorem visitOrder_mapRemaining (o : RecordOrder) (g : Int → Int) (l : List FuRecord) :
    visitOrder o (l.map (FuRecord.mapRemaining g)) = (visitOrder o l).map (FuRecord.mapRemaining g) := by
  cases o with
  | insertion => rfl
  | newestFirst => exact List.map_reverse.symm
  | byStation order => exact sort_mapRemaining (key := fun f => order.idxOf f.rs) (fun _ => rfl) l
  | byInstruction => exact sort_mapRemaining (key := FuRecord.instructionIndex) (fun _ => rfl) l

theorem forEach_complete_mapRemaining (g : Int → Int) (l : List FuRecord) (s : State) :
    forEach completeRecord (l.map (FuRecord.mapRemaining g)) s = forEach completeRecord l s := by
  induction l generalizing s with
  | nil => rfl
  | cons f l ih =>
    have hrest : forEach completeRecord (l.map (FuRecord.mapRemaining g)) = forEach completeRecord l := funext ih
    rw [List.map_cons, forEach, forEach, hrest]
    rfl

/-- Execute-Advance in terms of the records as they were before the decrement. -/
theorem executeAdvance_eq_forEach (s : State) : executeAdvance s =
    forEach completeRecord (visitOrder s.cfg.recordOrder s.finishing) (s.setFu s.counting) := by
  have hfinished : (s.fu.map FuRecord.decrement).filter FuRecord.finished =
      s.finishing.map (FuRecord.mapRemaining (· - 1)) := by
    rw [List.filter_map, State.finishing]
    refine congrArg (List.map _) (List.filter_congr fun f _ => decide_eq_decide.mpr ?_)
    change f.remaining - 1 ≤ 0 ↔ f.remaining ≤ 1
    omega
  have hcounting : ((s.fu.map FuRecord.decrement).filter fun f => !f.finished) = s.counting := by
    rw [List.filter_map, State.counting]
    refine congrArg (List.map _) (List.filter_congr fun f _ => Bool.eq_iff_iff.mpr ?_)
    rw [Function.comp_apply, FuRecord.not_finished_iff, decide_eq_true_iff]
    change 1 ≤ f.remaining - 1 ↔ 1 < f.remaining
    omega
  rw [executeAdvance, hfinished, hcounting, visitOrder_mapRemaining, forEach_complete_mapRemaining]

/-! The walk over the finished records -/

theorem length_markCompleted (cycle : Nat) (l : List FuRecord) (stamps : List Stamps) :
    (markCompleted cycle l stamps).length = stamps.length :=
  List.length_mapIdx

theorem getElem_markCompleted {cycle n : Nat} {stamps : List Stamps} (hn : n < stamps.length) :
    (markCompleted cycle l stamps)[n]'(by rwa [length_markCompleted]) =
      if ∃ f ∈ l, f.instructionIndex = n then { stamps[n] with executionComplete := some cycle } else stamps[n] :=
  List.getElem_mapIdx

theorem markCompleted_nil (cycle : Nat) (stamps : List Stamps) : markCompleted cycle [] stamps = stamps := by
  refine List.ext_getElem (length_markCompleted ..) fun n _ hn => ?_
  rw [getElem_markCompleted hn, if_neg (by simp)]

/-- A completion marks its own row, the later ones theirs. -/
theorem markCompleted_setStamp (s : State) (f : FuRecord) (l : List FuRecord) :
    markCompleted s.cycle l (s.setStamp f.instructionIndex fun x => { x with executionComplete := some s.cycle }).stamp =
      markCompleted s.cycle (f :: l) s.stamp := by
  refine List.ext_getElem (by simp [length_markCompleted]) fun n hn _ => ?_
  have hlt : n < s.stamp.length := by simpa [length_markCompleted] using hn
  have hread : s.stampOf n = s.stamp[n] := List.getD_eq_getElem _ _ hlt
  rw [getElem_markCompleted hlt, getElem_markCompleted (by simpa using hlt)]
  by_cases heq : f.instructionIndex = n <;> simp [heq, hread]

theorem completeAll_nil (s : State) : s.completeAll [] = s := by
  simp [State.completeAll, markCompleted_nil]

theorem completeAll_cons {f : FuRecord} {b : Nat} (hb : (s.station f.rs).destRob = some b) :
    ((s.setStamp f.instructionIndex fun x => { x with executionComplete := some s.cycle }).setCdbq
      (s.cdbq ++ [b])).completeAll l = s.completeAll (f :: l) := by
  have hqueue : s.cdbq ++ [b] ++ l.filterMap (fun f => (s.station f.rs).destRob) =
      s.cdbq ++ (f :: l).filterMap fun f => (s.station f.rs).destRob := by
    simp [hb]
  exact congrArg₂ (fun q x => { s with cdbq := q, stamp := x }) hqueue (markCompleted_setStamp s f l)

theorem forEach_complete_eq (h : ∀ f ∈ l, (s.station f.rs).destRob ≠ none) :
    forEach completeRecord l s = .next (s.completeAll l) := by
  induction l generalizing s with
  | nil => rw [completeAll_nil, forEach]
  | cons f l ih =>
    obtain ⟨hf, hl⟩ := List.forall_mem_cons.mp h
    obtain ⟨b, hb⟩ := Option.ne_none_iff_exists'.mp hf
    rw [forEach, completeRecord, hb]
    dsimp only
    rw [andThen_of_next, ← completeAll_cons hb]
    exact ih hl

/-- Two walks over the same records differ in the order of the queue only. -/
theorem completeAll_of_perm (h : l.Perm l') :
    s.completeAll l = { s.completeAll l' with cdbq := (s.completeAll l).cdbq } := by
  simp only [State.completeAll, markCompleted, h.mem_iff]

theorem stampOf_completeAll {n : Nat} (hn : n < s.stamp.length) (l : List FuRecord) :
    (s.completeAll l).stampOf n =
      if ∃ f ∈ l, f.instructionIndex = n then { s.stampOf n with executionComplete := some s.cycle }
      else s.stampOf n := by
  have hread : s.stampOf n = s.stamp[n] := List.getD_eq_getElem _ _ hn
  rw [hread, ← getElem_markCompleted hn]
  exact List.getD_eq_getElem _ _ _

/-- Execute-Advance where every record has its ROB index. -/
theorem executeAdvance_eq (h : ∀ f ∈ s.fu, (s.station f.rs).destRob ≠ none) : executeAdvance s =
    .next ((s.setFu s.counting).completeAll (visitOrder s.cfg.recordOrder s.finishing)) := by
  rw [executeAdvance_eq_forEach]
  exact forEach_complete_eq fun f hf => h f (List.mem_of_mem_filter ((visitOrder_perm _ _).mem_iff.mp hf))

/-- Settles O18: at the spec's order the walk goes over the finished records front to back. -/
theorem executeAdvanceCountsDown : Obligations.ExecuteAdvanceCountsDown := by
  intro s horder hdest
  refine ⟨_, executeAdvance_eq hdest, rfl, rfl, ?queue, fun n hn => ?stamps⟩ <;> rw [horder]
  case queue => rfl
  case stamps =>
    have hwho : (∃ f ∈ s.finishing, f.instructionIndex = n) ↔ ∃ f ∈ s.fu, f.instructionIndex = n ∧ f.remaining ≤ 1 := by
      refine exists_congr fun f => ?_
      rw [State.finishing, List.mem_filter, decide_eq_true_iff, and_assoc, and_comm (a := f.remaining ≤ 1)]
    rw [stampOf_completeAll (s := s.setFu s.counting) hn]
    exact if_congr hwho rfl rfl

/-- Settles O54: the walk in the configured order and the one front to back go over the same records. -/
theorem recordOrderDecidesOnlyTheQueueOrder : Obligations.RecordOrderDecidesOnlyTheQueueOrder := by
  intro s hdest
  refine ⟨_, visitOrder s.cfg.recordOrder s.finishing, executeAdvance_eq hdest, visitOrder_perm _ _, ?order, rfl,
    _, executeAdvance_eq hdest, ?same⟩
  case order =>
    cases s.cfg.recordOrder with
    | insertion => rfl
    | newestFirst => rfl
    | byStation order => exact visitOrder_byStation order _
    | byInstruction => exact visitOrder_byInstruction _
  case same => exact completeAll_of_perm (visitOrder_perm s.cfg.recordOrder s.finishing)

end Sys2Proof.Machine
end

section
/-! PROOF. Execute-Start station by station (R140 to R146): what the loop has done after the stations it has visited, all
of it in terms of the state it started from. -/

namespace Sys2Proof.Machine

variable {s t : State} {id : StationId} {visited l : List StationId}

/-- The tracker record of a dispatch at station `id` (R142). -/
def State.startRecord (s : State) (id : StationId) : FuRecord where
  rs := id
  instructionIndex := (s.station id).instructionIndex.getD 0
  remaining := latency s.cfg ((s.station id).op.getD .add)

/-- The stations of a scan stand in it once, are complete when busy, and write into entries of their own. -/
structure Scannable (s : State) (l : List StationId) : Prop where
  once : l.Nodup
  complete : ∀ id ∈ l, (s.station id).busy = true →
    (s.station id).op ≠ none ∧ (s.station id).instructionIndex ≠ none ∧ (s.station id).destRob ≠ none
  apart : ∀ id ∈ l, ∀ id' ∈ l, (s.station id).busy = true → (s.station id').busy = true →
    (s.station id).destRob = (s.station id').destRob → id = id'

/-- `t` is `s` after Execute-Start has visited the stations `visited`. -/
structure StartedSince (s : State) (visited : List StationId) (t : State) : Prop where
  frame : t = { s with fu := t.fu, rob := t.rob }
  records : t.fu = s.fu ++ (visited.filter fun id => s.dispatchable (s.station id)).map s.startRecord
  others : ∀ p, (¬ ∃ id ∈ visited, s.dispatchable (s.station id) = true ∧ (s.station id).destRob = some p) →
    t.entry p = s.entry p
  started : ∀ id ∈ visited, s.dispatchable (s.station id) = true → ∀ p, (s.station id).destRob = some p →
    t.entry p = (s.entry p).dispatched ((s.station id).op.getD .add) (s.station id)

theorem busy_of_dispatchable (h : s.dispatchable (s.station id) = true) : (s.station id).busy = true := by
  obtain ⟨hbusy, -⟩ := (dispatchable_iff s _).mp h
  exact hbusy

theorem lt_length_of_issued {b : Nat} (h : (s.entry b).state = .issued) : b < s.rob.length := by
  refine Nat.lt_of_not_le fun hge => ?_
  simp [entry_of_length_le hge] at h

/-- Two busy stations of a scan write into two entries. -/
theorem Scannable.dest_ne (h : Scannable s (visited ++ id :: l)) {id' : StationId} (hid' : id' ∈ visited)
    (hbusy' : (s.station id').busy = true) (hbusy : (s.station id).busy = true) :
    (s.station id').destRob ≠ (s.station id).destRob := by
  intro heq
  obtain rfl := h.apart id' (List.mem_append_left _ hid') id List.mem_append_cons_self hbusy' hbusy heq
  exact List.disjoint_of_nodup_append h.once hid' List.mem_cons_self

theorem StartedSince.nil (s : State) : StartedSince s [] s :=
  ⟨rfl, (List.append_nil _).symm, fun _ _ => rfl, nofun⟩

theorem StartedSince.station (h : StartedSince s visited t) (id : StationId) : t.station id = s.station id :=
  station_of_rs (congrArg State.rs h.frame) id

/-- The dispatches before `id` are at other stations and leave its entry alone. -/
theorem StartedSince.entry_ahead (h : StartedSince s visited t) (hscan : Scannable s (visited ++ id :: l)) {b : Nat}
    (hbusy : (s.station id).busy = true) (hb : (s.station id).destRob = some b) : t.entry b = s.entry b := by
  refine h.others b ?_
  rintro ⟨id', hid', hready', hb'⟩
  exact hscan.dest_ne hid' (busy_of_dispatchable hready') hbusy (hb'.trans hb.symm)

/-- So `id` is dispatched when the loop gets to it exactly if it could be dispatched at the start. -/
theorem StartedSince.dispatchable_ahead (h : StartedSince s visited t) (hscan : Scannable s (visited ++ id :: l)) :
    t.dispatchable (s.station id) = s.dispatchable (s.station id) := by
  rw [Bool.eq_iff_iff, dispatchable_iff, dispatchable_iff]
  refine and_congr_right fun hbusy => and_congr_right' <| and_congr_right' <| exists_congr fun b =>
    and_congr_right fun hb => ?_
  rw [h.entry_ahead hscan hbusy hb]

/-- Passing over a station that cannot be dispatched. -/
theorem StartedSince.pass (h : StartedSince s visited t) (hnot : s.dispatchable (s.station id) = false) :
    StartedSince s (visited ++ [id]) t where
  frame := h.frame
  records := by simpa [List.filter_append, hnot] using h.records
  others p hp := h.others p fun ⟨id', hid', hrest⟩ => hp ⟨id', List.mem_append_left _ hid', hrest⟩
  started id' hid' hready := by
    obtain hold | hnew := List.mem_append.mp hid'
    · exact h.started id' hold hready
    · rw [List.mem_singleton.mp hnew, hnot] at hready
      cases hready

/-- Dispatching the next station. -/
theorem StartedSince.dispatch (h : StartedSince s visited t) (hscan : Scannable s (visited ++ id :: l)) {b : Nat}
    (hready : s.dispatchable (s.station id) = true) (hb : (s.station id).destRob = some b) :
    StartedSince s (visited ++ [id]) ((t.setFu (t.fu ++ [s.startRecord id])).setEntry b
      ((t.entry b).dispatched ((s.station id).op.getD .add) (s.station id))) := by
  have hbusy : (s.station id).busy = true := busy_of_dispatchable hready
  have hown : t.entry b = s.entry b := h.entry_ahead hscan hbusy hb
  have hlt : b < t.rob.length := by
    obtain ⟨-, -, -, b', hb', hissued⟩ := (dispatchable_iff s _).mp hready
    obtain rfl : b' = b := Option.some.inj (hb'.symm.trans hb)
    exact lt_length_of_issued (hown ▸ hissued)
  have hentry := entry_setEntry (s := t.setFu (t.fu ++ [s.startRecord id]))
    ((t.entry b).dispatched ((s.station id).op.getD .add) (s.station id)) hlt
  refine ⟨?frame, ?records, fun p hp => ?others, fun id' hid' hready' p hp => ?started⟩
  case frame =>
    rw [h.frame]
    rfl
  case records => simp [List.filter_append, hready, h.records]
  case others =>
    have hne : p ≠ b := fun heq => hp ⟨id, by simp, hready, heq ▸ hb⟩
    rw [hentry, if_neg hne]
    exact h.others p fun ⟨id', hid', hrest⟩ => hp ⟨id', List.mem_append_left _ hid', hrest⟩
  case started =>
    rw [hentry]
    obtain hold | hnew := List.mem_append.mp hid'
    · have hne : p ≠ b := fun heq =>
        hscan.dest_ne hold (busy_of_dispatchable hready') hbusy (hp.trans (heq ▸ hb.symm))
      rw [if_neg hne]
      exact h.started id' hold hready' p hp
    · obtain rfl := List.mem_singleton.mp hnew
      obtain rfl : p = b := Option.some.inj (hp.symm.trans hb)
      rw [if_pos rfl, hown]

/-- The next station of the scan. -/
theorem StartedSince.visit (h : StartedSince s visited t) (hscan : Scannable s (visited ++ id :: l)) :
    ∃ u, dispatchStation t id = .next u ∧ StartedSince s (visited ++ [id]) u := by
  rw [dispatchStation, h.station, h.dispatchable_ahead hscan]
  cases hready : s.dispatchable (s.station id) with
  | false => exact ⟨t, rfl, h.pass hready⟩
  | true =>
    obtain ⟨hop, hindex, hdest⟩ := hscan.complete id List.mem_append_cons_self (busy_of_dispatchable hready)
    obtain ⟨k, hk⟩ := Option.ne_none_iff_exists'.mp hop
    obtain ⟨i, hi⟩ := Option.ne_none_iff_exists'.mp hindex
    obtain ⟨b, hb⟩ := Option.ne_none_iff_exists'.mp hdest
    have hrecord : s.startRecord id = { rs := id, instructionIndex := i, remaining := latency t.cfg k } := by
      rw [State.startRecord, hi, hk, h.frame]
      rfl
    have hdispatch := h.dispatch hscan hready hb
    rw [hk, hrecord] at hdispatch
    refine ⟨_, ?_, hdispatch⟩
    rw [if_pos rfl, hb, hk, hi]
    rfl

theorem StartedSince.scan (h : StartedSince s visited t) (hscan : Scannable s (visited ++ l)) :
    ∃ u, forEach dispatchStation l t = .next u ∧ StartedSince s (visited ++ l) u := by
  induction l generalizing visited t with
  | nil => exact ⟨t, rfl, (List.append_nil visited).symm ▸ h⟩
  | cons id l ih =>
    obtain ⟨u, hu, hstarted⟩ := h.visit hscan
    rw [List.append_cons] at hscan ⊢
    obtain ⟨v, hv, hdone⟩ := ih hstarted hscan
    refine ⟨v, ?_, hdone⟩
    rw [forEach, hu, andThen_of_next, hv]

/-- The new records are those of the dispatchable stations, so in scan order. -/
theorem executeStart_startedSince (hscan : Scannable s s.cfg.scanOrder) :
    ∃ t, executeStart s = .next t ∧ StartedSince s s.cfg.scanOrder t :=
  (StartedSince.nil s).scan hscan

/-- Settles O17: "ready" is `dispatchable`, all of it judged in the state before the scan. -/
theorem executeStartDispatchesReadyStations : Obligations.ExecuteStartDispatchesReadyStations := by
  intro s honce hcomplete hapart ready
  have hready (id : StationId) : s.dispatchable (s.station id) = true ↔ ready id := dispatchable_iff s _
  obtain ⟨t, ht, hstarted⟩ := executeStart_startedSince ⟨honce, hcomplete, hapart⟩
  refine ⟨t, ht, hstarted.frame, ⟨_, List.filter_sublist, fun id hid => ?which, hstarted.records⟩,
    fun p hp => ?others, fun id hid hisReady b hb _ => ?started⟩
  case which =>
    rw [List.mem_filter, hready]
    exact and_iff_right hid
  case others =>
    simp only [← hready] at hp
    exact hstarted.others p hp
  case started =>
    have hdispatch := (hready id).mpr hisReady
    obtain ⟨hop, -⟩ := hcomplete id hid (busy_of_dispatchable hdispatch)
    obtain ⟨k, hk⟩ := Option.ne_none_iff_exists'.mp hop
    rw [hstarted.started id hid hdispatch b hb, RobEntry.dispatched, hk]
    simp

end Sys2Proof.Machine
end

section
/-! PROOF. A latency below 1 acts as latency 1 (R151): a run of the two Execute phases beside one with every latency
raised to at least 1. -/

namespace Sys2Proof.Machine

variable {s s' t : State}

/-- The configuration with every latency below 1 replaced by 1. -/
def raiseLatencies (c : Config) : Config :=
  { c with
    latAdd := max 1 c.latAdd, latSub := max 1 c.latSub, latMul := max 1 c.latMul
    latDiv := max 1 c.latDiv, latLoad := max 1 c.latLoad, latStore := max 1 c.latStore }

/-- `s` with its latencies raised. -/
def State.raisedLatencies (s : State) : State := { s with cfg := raiseLatencies s.cfg }

/-- A record whose counter is below 1, raised to 1. -/
def FuRecord.raised (f : FuRecord) : FuRecord := f.mapRemaining (max 1)

/-- `s'` is `s` with its latencies raised and other counters, the same ones where they are above 1. -/
def State.SameUpToRaise (s s' : State) : Prop :=
  ∃ fu, s' = s.raisedLatencies.setFu fu ∧ fu.map FuRecord.raised = s.fu.map FuRecord.raised

theorem latency_raiseLatencies (c : Config) (k : Kind) : latency (raiseLatencies c) k = max 1 (latency c k) := by
  cases k <;> rfl

theorem raised_of_max (id : StationId) (i : Nat) (r : Int) :
    FuRecord.raised ⟨id, i, max 1 r⟩ = FuRecord.raised ⟨id, i, r⟩ :=
  congrArg (FuRecord.mk id i) (max_eq_right (le_max_left 1 r))

theorem raised_of_lt {f : FuRecord} (h : 1 < f.remaining) : f.raised = f :=
  congrArg (FuRecord.mk f.rs f.instructionIndex) (max_eq_right h.le)

/-- A loop whose calls keep a relation between two runs keeps it. -/
theorem forEach_simulates {α : Type} {R : State → State → Prop} {f : State → α → Host.Outcome State Fault Refusal}
    {l : List α} (hf : ∀ x s s' t, R s s' → f s x = .next t → ∃ t', f s' x = .next t' ∧ R t t') (hs : R s s')
    (h : forEach f l s = .next t) : ∃ t', forEach f l s' = .next t' ∧ R t t' := by
  induction l generalizing s s' with
  | nil =>
    cases h
    exact ⟨s', rfl, hs⟩
  | cons x l ih =>
    obtain ⟨u, hu, hrest⟩ := andThen_next h
    obtain ⟨u', hu', hrel⟩ := hf x s s' u hs hu
    obtain ⟨t', ht', hdone⟩ := ih hrel hrest
    refine ⟨t', ?_, hdone⟩
    rw [forEach, hu', andThen_of_next, ht']

/-! Execute-Start -/

/-- A dispatch reads the latency for the new counter only. -/
theorem dispatchStation_sameUpToRaise (id : StationId) (h : s.SameUpToRaise s') (hd : dispatchStation s id = .next t) :
    ∃ t', dispatchStation s' id = .next t' ∧ t.SameUpToRaise t' := by
  obtain ⟨fu, rfl, hfu⟩ := h
  set s' := s.raisedLatencies.setFu fu
  have hstation : s'.station id = s.station id := rfl
  have hdispatchable : s'.dispatchable (s.station id) = s.dispatchable (s.station id) := rfl
  obtain ⟨hnot, rfl⟩ | ⟨hready, b, k, i, hb, hk, hi, rfl⟩ := dispatchStation_cases hd
  · refine ⟨s', ?_, fu, rfl, hfu⟩
    simp [dispatchStation, hstation, hdispatchable, hnot]
  · refine ⟨(s'.setFu (fu ++ [⟨id, i, latency s'.cfg k⟩])).setEntry b ((s.entry b).dispatched k (s.station id)), ?_,
      fu ++ [⟨id, i, latency s'.cfg k⟩], rfl, ?_⟩
    · rw [dispatchStation, hstation, hdispatchable, if_pos hready, hb, hk, hi]
      rfl
    · have hnew : FuRecord.raised ⟨id, i, latency s'.cfg k⟩ = FuRecord.raised ⟨id, i, latency s.cfg k⟩ :=
        (congrArg (fun r => FuRecord.raised ⟨id, i, r⟩) (latency_raiseLatencies s.cfg k)).trans (raised_of_max id i _)
      simp [hfu, hnew]

theorem executeStart_sameUpToRaise (h : executeStart s = .next t) :
    ∃ t', executeStart s.raisedLatencies = .next t' ∧ t.SameUpToRaise t' :=
  forEach_simulates (fun id _ _ _ => dispatchStation_sameUpToRaise id) ⟨s.fu, rfl, rfl⟩ h

/-! Execute-Advance -/

/-- The heart of R151: a counter below 1 and a counter of 1 both finish with this cycle's decrement. -/
theorem finishing_raised (s : State) :
    (s.setFu (s.fu.map FuRecord.raised)).finishing = s.finishing.map (FuRecord.mapRemaining (max 1)) := by
  refine (List.filter_map ..).trans (congrArg (List.map _) (List.filter_congr fun f _ => decide_eq_decide.mpr ?_))
  change max 1 f.remaining ≤ 1 ↔ f.remaining ≤ 1
  omega

theorem counting_raised (s : State) : (s.setFu (s.fu.map FuRecord.raised)).counting = s.counting := by
  have habove : s.fu.filter ((fun f => decide (1 < f.remaining)) ∘ FuRecord.raised) =
      s.fu.filter fun f => decide (1 < f.remaining) := by
    refine List.filter_congr fun f _ => decide_eq_decide.mpr ?_
    change 1 < max 1 f.remaining ↔ 1 < f.remaining
    omega
  rw [State.counting, State.counting, setFu_fu, List.filter_map, List.map_map, habove]
  refine List.map_congr_left fun f hf => congrArg FuRecord.decrement (raised_of_lt ?_)
  obtain ⟨-, hlt⟩ := List.mem_filter.mp hf
  exact of_decide_eq_true hlt

theorem executeAdvance_raised (s : State) : executeAdvance (s.setFu (s.fu.map FuRecord.raised)) = executeAdvance s := by
  rw [executeAdvance_eq_forEach, executeAdvance_eq_forEach, finishing_raised, counting_raised, setFu_cfg,
    visitOrder_mapRemaining, forEach_complete_mapRemaining]
  rfl

theorem completeRecord_raisedLatencies {f : FuRecord} (h : completeRecord s f = .next t) :
    completeRecord s.raisedLatencies f = .next t.raisedLatencies := by
  obtain ⟨b, hb, rfl⟩ := completeRecord_cases h
  have hb' : (s.raisedLatencies.station f.rs).destRob = some b := hb
  rw [completeRecord, hb']
  rfl

/-- Execute-Advance does not read the latencies. -/
theorem executeAdvance_raisedLatencies (h : executeAdvance s = .next t) :
    executeAdvance s.raisedLatencies = .next t.raisedLatencies := by
  have hstep (f : FuRecord) (u u' v : State) (hu : u' = u.raisedLatencies) (hv : completeRecord u f = .next v) :
      ∃ v', completeRecord u' f = .next v' ∧ v' = v.raisedLatencies :=
    ⟨_, hu ▸ completeRecord_raisedLatencies hv, rfl⟩
  obtain ⟨t', ht', rfl⟩ := forEach_simulates hstep rfl h
  exact ht'

theorem executeAdvance_sameUpToRaise (h : s.SameUpToRaise s') (ha : executeAdvance s = .next t) :
    executeAdvance s' = .next t.raisedLatencies := by
  obtain ⟨fu, rfl, hfu⟩ := h
  calc executeAdvance (s.raisedLatencies.setFu fu)
    _ = executeAdvance (s.raisedLatencies.setFu (fu.map FuRecord.raised)) := (executeAdvance_raised _).symm
    _ = executeAdvance (s.raisedLatencies.setFu (s.fu.map FuRecord.raised)) := by rw [hfu]
    _ = executeAdvance s.raisedLatencies := executeAdvance_raised s.raisedLatencies
    _ = .next t.raisedLatencies := executeAdvance_raisedLatencies ha

/-- Settles O19: after Execute-Start the two states agree up to the raise, which Execute-Advance does not see. -/
theorem latencyBelowOneActsAsOne : Obligations.LatencyBelowOneActsAsOne := by
  intro s t c h
  obtain ⟨u, hstart, hadvance⟩ := andThen_next h
  obtain ⟨u', hstart', hsame⟩ := executeStart_sameUpToRaise hstart
  have hcfg : t.cfg = s.cfg := ((executeStart_frontKept hstart).trans (executeAdvance_frontKept hadvance)).cfg
  have hc : { t with cfg := c } = t.raisedLatencies := by
    rw [State.raisedLatencies, hcfg]
    rfl
  rw [hc]
  change andThen (executeStart s.raisedLatencies) executeAdvance = _
  rw [hstart', andThen_of_next]
  exact executeAdvance_sameUpToRaise hsame hadvance

end Sys2Proof.Machine
end

section
/-! PROOF. Write-Result from every state, with no invariant assumed (R155 to R165): it faults without a station, or
leaves what the station computes and the broadcast of it. -/

namespace Sys2Proof.Machine

variable {s t : State} {b i p : Nat} {id : StationId} {rest : List Nat} {k : Kind} {result : Int}

/-! The popped index (R155, R156, R165) -/

/-- An identity that names no station reads as a free one, so the search finds stations of the machine only. -/
theorem stationExists_of_locateStation (h : s.locateStation b = some id) : s.stationExists id = true := by
  obtain ⟨-, hbusy, -⟩ := locateStation_spec h
  by_contra hout
  have hfree : s.station id = {} := by simp_all [State.station, State.stationExists]
  simp [hfree] at hbusy

theorem locateStation_eq_none_iff : s.locateStation b = none ↔
    ∀ id ∈ s.cfg.stationOrder, (s.station id).busy = true → (s.station id).destRob ≠ some b := by
  simp only [State.locateStation, List.find?_eq_none, producesInto_iff, not_and, ne_eq]

theorem writeResult_of_not_located (hq : s.cdbq = b :: rest) (hloc : s.locateStation b = none) :
    writeResult s = .fault (.missingStation b) := by
  have hloc' : (s.setCdbq rest).locateStation b = none := hloc
  simp only [writeResult, hq, hloc']

theorem writeResult_of_located (hq : s.cdbq = b :: rest) (hloc : s.locateStation b = some id)
    (hop : (s.station id).op = some k) (hi : (s.station id).instructionIndex = some i) :
    writeResult s = .next ((s.setCdbq rest).writeBack b id k i) := by
  have hloc' : (s.setCdbq rest).locateStation b = some id := hloc
  simp only [writeResult, hq, hloc', hop, hi]

/-- Settles O22: the search of the station order finds nobody. -/
theorem missingStationFaults : Obligations.MissingStationFaults :=
  fun _ _ _ hq hnobody => writeResult_of_not_located hq (locateStation_eq_none_iff.mpr hnobody)

/-! What a LOAD computes, by the range of its address (R65, R210, R232) -/

theorem compute_load (c : Config) (m : Memory) (q : Station) (i : Nat) :
    compute c m .load q i =
      { result := if 0 ≤ effectiveAddress c q ∧ effectiveAddress c q < c.memSize
          then Memory.read c m (effectiveAddress c q).toNat else 0
        address := some (effectiveAddress c q)
        events := if 0 ≤ effectiveAddress c q ∧ effectiveAddress c q < c.memSize
          then [] else [.loadAddrRange i (effectiveAddress c q)] } := by
  simp only [compute, computeLoad, memRead, loadEvents, addressValid_iff]

/-! The broadcast (R160 to R163) -/

theorem receive_eq_of_busy (q : Station) (h : q.busy = true) : q.receive b result =
    { q with
      vj := if q.qj = some b then result else q.vj
      qj := if q.qj = some b then none else q.qj
      vk := if q.qk = some b then result else q.vk
      qk := if q.qk = some b then none else q.qk } := by
  rw [Station.receive, if_pos h]
  by_cases hj : q.qj = some b <;> by_cases hk : q.qk = some b <;> simp [hj, hk]

theorem mirrorsInto_iff {l : List Station} : mirrorsInto b l p = true ↔
    ∃ q ∈ l, q.busy = true ∧ q.qj = some b ∧ q.op = some .store ∧ q.destRob = some p := by
  simp [mirrorsInto, Station.awaitsStoreData, and_assoc]

/-- The broadcast writes the stations and the ROB only. -/
theorem broadcast_frame (s : State) (b : Nat) (result : Int) :
    ∃ pool rob, s.broadcast b result = { s with rs := pool, rob := rob } := by
  unfold State.broadcast
  split <;> exact ⟨_, _, rfl⟩

theorem stationExists_broadcast : (s.broadcast b result).stationExists id = s.stationExists id := by
  unfold State.broadcast
  split
  · simp [State.stationExists]
  · rfl

theorem station_broadcast (hbusy : (s.entry b).busy = true) (id : StationId) :
    (s.broadcast b result).station id = (s.station id).receive b result := by
  rw [State.broadcast, if_pos hbusy]
  exact Writes.station_map (c := { result := result }) id

theorem entry_broadcast (hbusy : (s.entry b).busy = true) (hp : p < s.rob.length) :
    (s.broadcast b result).entry p =
      if mirrorsInto b s.rs.toList p = true then { s.entry p with value := result, valueReady := true }
      else s.entry p := by
  rw [State.broadcast, if_pos hbusy]
  exact (getD_foldl_mirrorInto b result s.rs.toList s.rob p).trans (if_congr (and_iff_right hp) rfl rfl)

/-- An entry that no waiting STORE writes into stays as it was, the broadcast guarded off or not. -/
theorem entry_broadcast_of_not_mirrored (hp : ¬ mirrorsInto b s.rs.toList p = true) :
    (s.broadcast b result).entry p = s.entry p := by
  unfold State.broadcast
  split
  · exact (getD_foldl_mirrorInto b result s.rs.toList s.rob p).trans (if_neg fun hm => hp hm.2)
  · rfl

/-! What Write-Result leaves (R157 to R164) -/

/-- What Write-Result broadcasts from: stamp, events and the popped entry are written, no station is yet (R157 to
R159). -/
def State.wroteEntry (s : State) (b : Nat) (id : StationId) (k : Kind) (i : Nat) : State :=
  ((s.stampWriteResult i).raise (compute s.cfg s.mem k (s.station id) i).events).setEntry b
    ((s.entry b).wrote (compute s.cfg s.mem k (s.station id) i))

theorem writeBack_eq : s.writeBack b id k i = ((s.wroteEntry b id k i).broadcast b
    (compute s.cfg s.mem k (s.station id) i).result).releaseStation id := rfl

theorem wroteEntry_entry_self (hb : b < s.rob.length) :
    (s.wroteEntry b id k i).entry b = (s.entry b).wrote (compute s.cfg s.mem k (s.station id) i) :=
  entry_setEntry_same ((s.stampWriteResult i).raise _) _ hb

theorem wroteEntry_entry_of_ne (hne : p ≠ b) : (s.wroteEntry b id k i).entry p = s.entry p :=
  entry_setEntry_other ((s.stampWriteResult i).raise _) _ hne

/-- The popped entry is still busy when the broadcast looks at it (R163). -/
theorem wroteEntry_busy (hb : b < s.rob.length) (hbusy : (s.entry b).busy = true) :
    ((s.wroteEntry b id k i).entry b).busy = true := by
  rw [wroteEntry_entry_self hb]
  exact hbusy

/-- Besides stations and ROB, Write-Result of instruction `i` writes its stamp and raises the events of its
computation. -/
theorem writeBack_frame (s : State) (b : Nat) (id : StationId) (k : Kind) (i : Nat) :
    ∃ pool rob, s.writeBack b id k i =
      { s with
        rs := pool
        rob := rob
        diagOut := s.diagOut ++ (compute s.cfg s.mem k (s.station id) i).events
        stamp := s.stamp.set i { s.stampOf i with writeResult := some s.cycle } } := by
  obtain ⟨pool, rob, heq⟩ := broadcast_frame (s.wroteEntry b id k i) b
    (compute s.cfg s.mem k (s.station id) i).result
  exact ⟨pool.set id {}, rob, by rw [writeBack_eq, heq]; rfl⟩

/-- The entry at the popped index: no STORE that waits for its own result writes over it. -/
theorem writeBack_entry_self (hb : b < s.rob.length)
    (hself : ∀ q ∈ s.rs.toList, q.busy = true → q.destRob = some b → q.qj ≠ some b) :
    (s.writeBack b id k i).entry b = (s.entry b).wrote (compute s.cfg s.mem k (s.station id) i) := by
  have hnot : ¬ mirrorsInto b (s.wroteEntry b id k i).rs.toList b = true := by
    rw [mirrorsInto_iff]
    rintro ⟨q, hq, hbusy, hj, -, hdest⟩
    exact hself q hq hbusy hdest hj
  exact (entry_broadcast_of_not_mirrored hnot).trans (wroteEntry_entry_self hb)

theorem writeBack_station_self (hid : s.stationExists id = true) : (s.writeBack b id k i).station id = {} :=
  station_setStation_same _ {} (stationExists_broadcast.trans hid)

theorem writeBack_station_of_ne (hb : b < s.rob.length) (hbusy : (s.entry b).busy = true) {id' : StationId}
    (hne : id' ≠ id) : (s.writeBack b id k i).station id' =
      (s.station id').receive b (compute s.cfg s.mem k (s.station id) i).result :=
  (station_setStation_other _ {} hne).trans (station_broadcast (wroteEntry_busy hb hbusy) id')

theorem writeBack_entry_of_ne (hb : b < s.rob.length) (hbusy : (s.entry b).busy = true) (hp : p < s.rob.length)
    (hne : p ≠ b) : (s.writeBack b id k i).entry p =
      if mirrorsInto b s.rs.toList p = true then
        { s.entry p with value := (compute s.cfg s.mem k (s.station id) i).result, valueReady := true }
      else s.entry p := by
  rw [← wroteEntry_entry_of_ne (s := s) (id := id) (k := k) (i := i) hne]
  exact entry_broadcast (wroteEntry_busy hb hbusy) (hp.trans_eq List.length_set.symm)

/-- Settles O20: `writeBack` writes what `compute` answers for the kind. -/
theorem writeResultComputes : Obligations.WriteResultComputes := by
  intro s b rest id k i hq hb hloc hop hi hself q ea inside result events
  have hcompute : compute s.cfg s.mem k q i =
      { result := result, address := if k = .load ∨ k = .store then some ea else none, events := events } := by
    cases k with
    | load => exact compute_load s.cfg s.mem q i
    | add | sub | mul | div | store => rfl
  have hentry : ((s.setCdbq rest).writeBack b id k i).entry b = (s.entry b).wrote (compute s.cfg s.mem k q i) :=
    writeBack_entry_self (s := s.setCdbq rest) hb hself
  have hstation : ((s.setCdbq rest).writeBack b id k i).station id = {} :=
    writeBack_station_self (s := s.setCdbq rest) (stationExists_of_locateStation hloc)
  obtain ⟨pool, rob, hframe⟩ := writeBack_frame (s.setCdbq rest) b id k i
  refine ⟨_, writeResult_of_located hq hloc hop hi, ?entry, hstation, ?frame⟩
  case entry =>
    rw [hentry, hcompute, RobEntry.wrote, apply_ite fun a : Option Int => a.getD (s.entry b).address]
    rfl
  case frame =>
    have hevents : (compute s.cfg s.mem k q i).events = events := congrArg Computed.events hcompute
    rw [hframe, ← hevents]
    exact ⟨rfl, rfl, rfl, rfl, rfl, rfl, rfl, rfl, rfl, rfl, rfl, rfl, rfl, rfl⟩

/-- Settles O21: the value that the broadcast carries is the one that the popped entry takes. -/
theorem broadcastReachesEveryWaiter : Obligations.BroadcastReachesEveryWaiter := by
  intro s t b rest id hq hb hbusy hloc hself ht result
  obtain ⟨hempty, -⟩ | ⟨b', rest', id', k, i, hq', hloc', -, -, rfl⟩ := writeResult_cases ht
  · simp [hq] at hempty
  · obtain ⟨rfl, rfl⟩ : b = b' ∧ rest = rest' := List.cons.inj (hq.symm.trans hq')
    obtain rfl : id = id' := Option.some.inj (hloc.symm.trans hloc')
    have hresult : result = (compute s.cfg s.mem k (s.station id) i).result :=
      congrArg RobEntry.value (writeBack_entry_self (s := s.setCdbq rest) hb hself)
    rw [hresult]
    refine ⟨fun id' hne => ?station, fun p hp hne => ?entry⟩
    case station =>
      refine (writeBack_station_of_ne (s := s.setCdbq rest) hb hbusy hne).trans ?_
      split
      · next hbusy' => exact receive_eq_of_busy _ hbusy'
      · next hfree => exact receive_of_free _ (Bool.eq_false_of_not_eq_true hfree)
    case entry =>
      exact (writeBack_entry_of_ne (s := s.setCdbq rest) hb hbusy hp hne).trans (if_congr mirrorsInto_iff rfl rfl)

end Sys2Proof.Machine
end

section
/-! PROOF. The CDB queue over a step (R155, R168), and what the pipeline invariant says of Write-Result (R165, R169). -/

namespace Sys2Proof.Machine

/-- Settles O31: Write-Result takes the front, Execute-Advance adds at the back, no other phase touches the queue. -/
theorem cdbQueueIsFifo : Obligations.CdbQueueIsFifo := fun _ _ => step_cdbq

/-- Settles O38: under the invariant each phase finds what it looks for. -/
theorem stepNeverStops : Obligations.StepNeverStops := fun _ => step_completes

/-- Settles O42: a busy station's tags name producers that are no STORE, and a free station has none. -/
theorem storeBroadcastReachesNobody : Obligations.StoreBroadcastReachesNobody := by
  intro s p id h hstore hid
  cases hbusy : (s.station id).busy
  · simp [h.stations.free id hid hbusy]
  · refine ⟨fun hj => ?qj, fun hk => ?qk⟩
    case qj =>
      obtain ⟨-, -, hother, -⟩ := h.operands.tagJ id hid hbusy p hj
      exact hother hstore
    case qk =>
      obtain ⟨-, -, hother, -⟩ := h.operands.tagK id hid hbusy p hk
      exact hother hstore

end Sys2Proof.Machine
end

section
/-! PROOF. The Commit phase from every state, with no invariant assumed (R175 to R184): when it waits, what it leaves of
a non-STORE and of a STORE, and that it alone stamps a commit. -/

namespace Sys2Proof.Machine

variable {s t u : State} {i : Nat}

/-! Waiting (R175, R176) -/

/-- Settles O25: each of the four causes fails Commit's test. -/
theorem commitWaitsForHead : Obligations.CommitWaitsForHead := by
  intro s hcause
  refine commit_of_not_ready (Bool.eq_false_iff.mpr fun hready => ?_)
  obtain ⟨havailable, hbusy, hwritten, hdata⟩ := (commitReady_iff s).mp hready
  obtain hempty | hidle | hunwritten | ⟨hstore, hpending⟩ := hcause
  · omega
  · exact Bool.false_ne_true (hidle.symm.trans hbusy)
  · exact hunwritten hwritten
  · exact Bool.false_ne_true (hpending.symm.trans (hdata hstore))

/-! Retiring (R177 to R182) -/

theorem commit_of_register {k : Kind} {r : RegIdx} (hready : s.commitReady = true)
    (hi : (s.entry s.head).instructionIndex = some i) (hk : (s.entry s.head).kind = some k) (hne : k ≠ .store)
    (hr : (s.entry s.head).destinationRegister = some r) :
    commit s = .next ((s.stampCommit i).commitRegister r (s.entry s.head).value s.head).freeHead := by
  rw [commit, if_pos hready, hi, hk, hr]
  cases k with
  | store => exact absurd rfl hne
  | add | sub | mul | div | load => rfl

theorem commit_of_store (hready : s.commitReady = true) (hi : (s.entry s.head).instructionIndex = some i)
    (hk : (s.entry s.head).kind = some .store) :
    commit s = .next ((s.stampCommit i).commitStore i (s.entry s.head).address (s.entry s.head).value).freeHead := by
  rw [commit, if_pos hready, hi, hk]

/-- Settles O23: the rename table is the one after the conditional un-rename. -/
theorem commitWritesRegister : Obligations.CommitWritesRegister := by
  intro s i k r havailable hbusy hwritten hi hk hne hr
  have hready : s.commitReady = true :=
    (commitReady_iff s).mpr
      ⟨havailable, hbusy, hwritten, fun hstore => absurd (Option.some.inj (hk.symm.trans hstore)) hne⟩
  rw [commit_of_register hready hi hk hne hr, State.commitRegister, unrename_eq]
  rfl

theorem storeEvents_eq (c : Config) (i : Nat) (address : Int) : storeEvents c i address =
    if 0 ≤ address ∧ address < c.memSize then [] else [.storeAddrRange i address] := by
  simp only [storeEvents, addressValid_iff]

/-- Settles O24: the memory is the one after `memWrite`, whose four facts are those of the memory layer. -/
theorem commitWritesMemory : Obligations.CommitWritesMemory := by
  intro s i hwf havailable hbusy hwritten hi hk hdata ea inside
  have hready : s.commitReady = true := (commitReady_iff s).mpr ⟨havailable, hbusy, hwritten, fun _ => hdata⟩
  have hvalid : addressValid s.cfg ea = true ↔ inside := addressValid_iff
  refine ⟨_, commit_of_store hready hi hk, ?whole, memWrite_keeps_wf hwf, fun hin => ?same, fun a hne => ?other,
    fun hout => ?out⟩
  case whole =>
    have hevents : s.diagOut ++ storeEvents s.cfg i ea =
        if inside then s.diagOut else s.diagOut ++ [.storeAddrRange i ea] := by
      rw [storeEvents_eq, apply_ite (s.diagOut ++ ·), List.append_nil]
    rw [← hevents]
    rfl
  case same =>
    have hread := memRead_memWrite_same hwf (hvalid.mpr hin) (s.entry s.head).value
    rwa [memRead_of_valid (hvalid.mpr hin)] at hread
  case other =>
    change Memory.read s.cfg (memWrite s.cfg s.mem ea _) a = _
    by_cases hin : inside
    · exact read_memWrite_other _ fun heq => hne ⟨hin, heq⟩
    · rw [memWrite, if_neg (mt hvalid.mp hin)]
  case out => exact if_neg (mt hvalid.mp hout)

/-! The commit stamps of a step (R183) -/

/-- `t` has the commit stamps of `s`. -/
def State.CommitsKept (s t : State) : Prop := ∀ n, (t.stampOf n).commit = (s.stampOf n).commit

theorem State.CommitsKept.refl (s : State) : s.CommitsKept s := fun _ => rfl

theorem State.CommitsKept.trans (h : s.CommitsKept t) (h' : t.CommitsKept u) : s.CommitsKept u :=
  fun n => (h' n).trans (h n)

/-- A row outside the table is not written. -/
theorem setStamp_of_length_le (f : Stamps → Stamps) (h : s.stamp.length ≤ i) : s.setStamp i f = s := by
  rw [State.setStamp, List.set_eq_of_length_le h]

theorem setStamp_commitsKept {f : Stamps → Stamps} (hf : ∀ x, (f x).commit = x.commit) :
    s.CommitsKept (s.setStamp i f) := by
  rcases Nat.lt_or_ge i s.stamp.length with hlt | hge
  · intro n
    rw [stampOf_setStamp f hlt]
    split
    · next heq => rw [hf, heq]
    · rfl
  · rw [setStamp_of_length_le f hge]
    exact .refl s

/-- Only the written row changes. -/
theorem stampOf_setStamp_of_changed {f : Stamps → Stamps} {n : Nat} (h : (s.setStamp i f).stampOf n ≠ s.stampOf n) :
    n = i ∧ (s.setStamp i f).stampOf n = f (s.stampOf n) := by
  rcases Nat.lt_or_ge i s.stamp.length with hlt | hge
  · by_cases heq : n = i
    · rw [heq]
      exact ⟨rfl, stampOf_setStamp_same s f hlt⟩
    · exact absurd (stampOf_setStamp_other s f heq) h
  · rw [setStamp_of_length_le f hge] at h
    exact absurd rfl h

theorem writeResult_commitsKept (h : writeResult s = .next t) : s.CommitsKept t := by
  obtain ⟨-, rfl⟩ | ⟨b, rest, id, k, i, -, -, -, -, rfl⟩ := writeResult_cases h
  · exact .refl _
  · obtain ⟨pool, rob, hframe⟩ := writeBack_frame (s.setCdbq rest) b id k i
    rw [hframe]
    exact setStamp_commitsKept (s := s) (f := fun x => { x with writeResult := some s.cycle }) fun _ => rfl

theorem issuePhase_commitsKept (h : issuePhase s = .next t) : s.CommitsKept t := by
  obtain ⟨-, rfl⟩ | ⟨w, i, -, -, he⟩ | ⟨w, why, -, -, rfl⟩ := issuePhase_cases h
  · exact .refl _
  · obtain rfl | ⟨id, q, e, -, rfl⟩ := exec_afterIssue he
    · exact .refl _
    · exact setStamp_commitsKept (s := s) (f := fun x => { x with issue := some s.cycle }) fun _ => rfl
  · exact .refl _

theorem executeStart_commitsKept (h : executeStart s = .next t) : s.CommitsKept t := by
  refine forEach_keeps (P := s.CommitsKept) (fun id _ u v hu hv => ?_) (.refl s) h
  obtain ⟨-, rfl⟩ | ⟨-, b, k, i, -, -, -, rfl⟩ := dispatchStation_cases hv
  · exact hu
  · exact hu

theorem executeAdvance_commitsKept (h : executeAdvance s = .next t) : s.CommitsKept t := by
  have h : forEach completeRecord _ (s.setFu _) = .next t := h
  refine forEach_keeps (P := s.CommitsKept) (fun f _ u v hu hv => ?complete) ?start h
  case complete =>
    obtain ⟨b, -, rfl⟩ := completeRecord_cases hv
    exact hu.trans
      (setStamp_commitsKept (s := u) (f := fun x => { x with executionComplete := some u.cycle }) fun _ => rfl)
  case start => exact fun _ => rfl

/-- After Commit no phase writes a commit stamp. -/
theorem step_commitsKept (h : step s = .next t) : ∃ s1, commit s.clearEvents = .next s1 ∧ s1.CommitsKept t := by
  obtain ⟨s1, s2, s3, s4, s5, hcommit, hwrite, hissue, hstart, hadvance, rfl⟩ := runCycle_cases h
  have hkept : s1.CommitsKept s5 :=
    (((writeResult_commitsKept hwrite).trans (issuePhase_commitsKept hissue)).trans
      (executeStart_commitsKept hstart)).trans (executeAdvance_commitsKept hadvance)
  exact ⟨s1, hcommit, hkept⟩

/-- Commit writes at most one row of the stamps, that of the written head. -/
theorem commit_stamp (h : commit s = .next t) : t.stamp = s.stamp ∨
    ∃ i, (s.entry s.head).instructionIndex = some i ∧ (s.entry s.head).state = .wroteResult ∧
      t.stamp = (s.stampCommit i).stamp := by
  obtain ⟨-, rfl⟩ | ⟨hready, i, hi, hretired⟩ := commit_cases h
  · exact .inl rfl
  · obtain ⟨-, -, hwritten, -⟩ := (commitReady_iff s).mp hready
    refine .inr ⟨i, hi, hwritten, ?_⟩
    obtain ⟨-, rfl⟩ | ⟨-, -, r, -, rfl⟩ := hretired
    · rfl
    · rw [State.commitRegister, unrename_eq]
      rfl

/-- Stamps read from the stamp table alone. -/
theorem stampOf_of_stamp (h : t.stamp = s.stamp) (n : Nat) : t.stampOf n = s.stampOf n := by
  simp only [State.stampOf, h]

/-- Settles O30: a commit stamp that changes is in the row that Commit wrote. -/
theorem onlyHeadCommits : Obligations.OnlyHeadCommits := by
  intro s t n ht hchanged
  obtain ⟨s1, hcommit, hkept⟩ := step_commitsKept ht
  rw [hkept n] at hchanged ⊢
  obtain hsame | ⟨i, hi, hwritten, hstamp⟩ := commit_stamp hcommit
  · exact absurd (congrArg Stamps.commit (stampOf_of_stamp hsame n)) hchanged
  · rw [stampOf_of_stamp hstamp n] at hchanged ⊢
    obtain ⟨rfl, hrow⟩ := stampOf_setStamp_of_changed fun heq => hchanged (congrArg Stamps.commit heq)
    exact ⟨hi, hwritten, congrArg Stamps.commit hrow⟩

end Sys2Proof.Machine
end

section
/-! PROOF. The operand slots of an instruction (R127 to R129), as the record names them. -/

namespace Sys2Proof

/-- The register whose operand goes to (Vj, Qj): the first source, or a STORE's data (R127, R129). -/
def Instr.sourceJ : Instr → Option RegIdx
  | .add _ rs1 _ => some rs1
  | .sub _ rs1 _ => some rs1
  | .mul _ rs1 _ => some rs1
  | .div _ rs1 _ => some rs1
  | .load _ _ _ => none
  | .store rsrc _ _ => some rsrc

/-- The register whose operand goes to (Vk, Qk): the second source, or the base (R127 to R129). -/
def Instr.sourceK : Instr → RegIdx
  | .add _ _ rs2 => rs2
  | .sub _ _ rs2 => rs2
  | .mul _ _ rs2 => rs2
  | .div _ _ rs2 => rs2
  | .load _ _ base => base
  | .store _ _ base => base

/-- What goes to `A`: the offset of a LOAD or STORE (R128, R129). -/
def Instr.displacement (c : Config) : Instr → Int
  | .add _ _ _ => 0
  | .sub _ _ _ => 0
  | .mul _ _ _ => 0
  | .div _ _ _ => 0
  | .load _ offset _ => Machine.offsetValue c offset
  | .store _ offset _ => Machine.offsetValue c offset

theorem Instr.dest_eq_none_iff (i : Instr) : i.dest = none ↔ i.kind = .store := by
  cases i <;> simp [Instr.dest, Instr.kind]

end Sys2Proof
end

section
/-! PROOF. Sequential execution (R185, R194): what one instruction produces and writes, and what a run of instructions
leaves unread. -/

namespace Sys2Proof.Machine

/-! One instruction -/

/-- The value that an instruction executed alone produces: its register result, or the data of a STORE. -/
def ArchState.result (c : Config) (x : ArchState) : Instr → Int
  | .add _ rs1 rs2 => addResult c x.regs[rs1] x.regs[rs2]
  | .sub _ rs1 rs2 => subResult c x.regs[rs1] x.regs[rs2]
  | .mul _ rs1 rs2 => mulResult c x.regs[rs1] x.regs[rs2]
  | .div _ rs1 rs2 => divResult c x.regs[rs1] x.regs[rs2]
  | .load _ offset base => memRead c x.mem (x.address c offset base)
  | .store rsrc _ _ => x.regs[rsrc]

/-- The address that a LOAD or STORE executed alone accesses; any other instruction accesses none. -/
def ArchState.target (c : Config) (x : ArchState) : Instr → Int
  | .load _ offset base => x.address c offset base
  | .store _ offset base => x.address c offset base
  | _ => 0

section instruction

variable {c : Config} {x : ArchState} {i : Instr}

theorem exec_of_dest {r : RegIdx} (h : i.dest = some r) :
    x.exec c i = { x with regs := x.regs.set r (x.result c i) } := by
  cases i with
  | store => cases h
  | add | sub | mul | div | load =>
    cases h
    rfl

theorem exec_of_store (h : i.kind = .store) :
    x.exec c i = { x with mem := memWrite c x.mem (x.target c i) (x.result c i) } := by
  cases i with
  | store => rfl
  | add | sub | mul | div | load => cases h

theorem access_of_load (h : i.kind = .load) (hvalid : addressValid c (x.target c i) = true) :
    x.access c i = some (.load, x.target c i) := by
  cases i with
  | load => exact if_pos hvalid
  | add | sub | mul | div | store => cases h

theorem access_of_store (h : i.kind = .store) (hvalid : addressValid c (x.target c i) = true) :
    x.access c i = some (.store, x.target c i) := by
  cases i with
  | store => exact if_pos hvalid
  | add | sub | mul | div | load => cases h

/-- Write-Result computes what the instruction produces alone, from the operands in its station and the memory it finds
(R158). -/
theorem compute_result {q : Station} {m : Memory} (n : Nat) (hj : ∀ r ∈ i.sourceJ, q.vj = x.regs[r])
    (hk : q.vk = x.regs[i.sourceK]) (ha : q.a = i.displacement c) :
    (compute c m i.kind q n).result = ArchState.result c ⟨x.regs, m⟩ i := by
  cases i with
  | load rd offset base =>
    change memRead c m (wrap c.xlen (q.a + q.vk)) = _
    rw [hk, ha]
    rfl
  | store rsrc offset base => exact hj rsrc rfl
  | add rd rs1 rs2 => exact congrArg₂ (addResult c) (hj rs1 rfl) hk
  | sub rd rs1 rs2 => exact congrArg₂ (subResult c) (hj rs1 rfl) hk
  | mul rd rs1 rs2 => exact congrArg₂ (mulResult c) (hj rs1 rfl) hk
  | div rd rs1 rs2 => exact congrArg₂ (divResult c) (hj rs1 rfl) hk

theorem compute_address_of_store {q : Station} {m : Memory} (n : Nat) (h : i.kind = .store)
    (hk : q.vk = x.regs[i.sourceK]) (ha : q.a = i.displacement c) :
    (compute c m i.kind q n).address = some (x.target c i) := by
  cases i with
  | store rsrc offset base =>
    change some (wrap c.xlen (q.a + q.vk)) = _
    rw [hk, ha]
    rfl
  | add | sub | mul | div | load => cases h

end instruction

/-! A run of instructions -/

/-- The reference of a run: the program's instructions, executed one at a time from `start` (R185). -/
structure Reference where
  cfg : Config
  start : ArchState
  instr : Nat → Instr

namespace Reference

variable (R : Reference) {m n : Nat}

/-- The architectural state that instruction `n` finds. -/
def before : Nat → ArchState
  | 0 => R.start
  | n + 1 => (before n).exec R.cfg (R.instr n)

/-- What instruction `n` produces. -/
def result (n : Nat) : Int := (R.before n).result R.cfg (R.instr n)

/-- The address that instruction `n` accesses. -/
def target (n : Nat) : Int := (R.before n).target R.cfg (R.instr n)

variable {R}

theorem before_succ_of_dest {r : RegIdx} (h : (R.instr n).dest = some r) :
    R.before (n + 1) = ⟨(R.before n).regs.set r (R.result n), (R.before n).mem⟩ :=
  exec_of_dest h

theorem before_succ_of_store (h : (R.instr n).kind = .store) :
    R.before (n + 1) = ⟨(R.before n).regs, memWrite R.cfg (R.before n).mem (R.target n) (R.result n)⟩ :=
  exec_of_store h

theorem reg_before_succ {r : RegIdx} (h : (R.instr n).dest = some r) : (R.before (n + 1)).regs[r] = R.result n := by
  rw [before_succ_of_dest h]
  exact Vector.getElem_set_self _

theorem reg_before_succ_of_ne {r : RegIdx} (h : (R.instr n).dest ≠ some r) :
    (R.before (n + 1)).regs[r] = (R.before n).regs[r] := by
  cases hd : (R.instr n).dest with
  | none => rw [before_succ_of_store ((R.instr n).dest_eq_none_iff.mp hd)]
  | some r' =>
    rw [before_succ_of_dest hd]
    exact Vector.getElem_set_ne r'.isLt r.isLt fun heq => h (hd.trans (congrArg some (Fin.ext heq)))

/-- A register that no instruction from `m` on writes. -/
theorem reg_before_of_unwritten {r : RegIdx} (hmn : m ≤ n)
    (h : ∀ k, m ≤ k → k < n → (R.instr k).dest ≠ some r) : (R.before n).regs[r] = (R.before m).regs[r] := by
  induction n, hmn using Nat.le_induction with
  | base => rfl
  | succ n hmn ih =>
    rw [reg_before_succ_of_ne (h n hmn (Nat.lt_succ_self n))]
    exact ih fun k hk hkn => h k hk (Nat.lt_succ_of_lt hkn)

theorem memRead_before_succ {address : Int} (h : (R.instr n).kind = .store → R.target n ≠ address) :
    memRead R.cfg (R.before (n + 1)).mem address = memRead R.cfg (R.before n).mem address := by
  cases hd : (R.instr n).dest with
  | none =>
    have hstore := (R.instr n).dest_eq_none_iff.mp hd
    rw [before_succ_of_store hstore]
    exact memRead_memWrite_other (h hstore).symm _
  | some r => rw [before_succ_of_dest hd]

/-- A word that no STORE from `m` on targets. -/
theorem memRead_before_of_unwritten {address : Int} (hmn : m ≤ n)
    (h : ∀ k, m ≤ k → k < n → (R.instr k).kind = .store → R.target k ≠ address) :
    memRead R.cfg (R.before n).mem address = memRead R.cfg (R.before m).mem address := by
  induction n, hmn using Nat.le_induction with
  | base => rfl
  | succ n hmn ih =>
    rw [memRead_before_succ (h n hmn (Nat.lt_succ_self n))]
    exact ih fun k hk hkn => h k hk (Nat.lt_succ_of_lt hkn)

variable (R) in
/-- Instruction `n` does not read a word that an older STORE, from `m` on, writes: it is no LOAD, or no such STORE
targets its word, or it targets no word of the memory (R256). -/
def LoadFresh (m n : Nat) : Prop :=
  (R.instr n).kind = .load → addressValid R.cfg (R.target n) = true →
    ∀ k, m ≤ k → k < n → (R.instr k).kind = .store → R.target k ≠ R.target n

/-- The memory before instruction `m` serves a fresh LOAD as the one before itself does. -/
theorem LoadFresh.memRead_eq (h : R.LoadFresh m n) (hload : (R.instr n).kind = .load) (hmn : m ≤ n) :
    memRead R.cfg (R.before m).mem (R.target n) = memRead R.cfg (R.before n).mem (R.target n) := by
  by_cases hvalid : addressValid R.cfg (R.target n) = true
  · exact (memRead_before_of_unwritten hmn (h hload hvalid)).symm
  · rw [memRead, memRead, if_neg hvalid, if_neg hvalid]

/-- With the registers it would find alone and the memory before instruction `m`, a fresh instruction produces its
result. -/
theorem LoadFresh.result_eq (h : R.LoadFresh m n) (hmn : m ≤ n) :
    ArchState.result R.cfg ⟨(R.before n).regs, (R.before m).mem⟩ (R.instr n) = R.result n := by
  have hload := h.memRead_eq (hmn := hmn)
  unfold target at hload
  unfold result
  cases hi : R.instr n with
  | load rd offset base =>
    rw [hi] at hload
    exact hload rfl
  | add | sub | mul | div | store => rfl

end Reference

end Sys2Proof.Machine
end

section
/-! PROOF. A machine in agreement with sequential execution (R185, R194): what its registers, its memory, its ROB entries
and its stations hold is what executing the program one instruction at a time would put there. -/

namespace Sys2Proof.Machine

/-- An operand slot that holds the value `v`, or waits for the instruction that produces it (R32, R126). -/
structure Reference.Denotes (R : Reference) (s : State) (o : Operand) (v : Int) : Prop where
  value : o.q = none → o.v = v
  tag : ∀ p ∈ o.q, R.result (s.entry p).age = v

/-- The entry of instruction `n`, with its result once that is written (R33, R158). -/
structure Reference.EntryAgrees (R : Reference) (e : RobEntry) (n : Nat) : Prop where
  kind : e.kind = some (R.instr n).kind
  dest : e.destinationRegister = (R.instr n).dest
  value : e.state = .wroteResult → e.value = R.result n
  address : e.state = .wroteResult → (R.instr n).kind = .store → e.address = R.target n

/-- The station of instruction `n`: its operands are those that the instruction would find alone (R126 to R129). -/
structure Reference.StationAgrees (R : Reference) (s : State) (q : Station) (n : Nat) : Prop where
  op : q.op = some (R.instr n).kind
  operandJ : ∀ r ∈ (R.instr n).sourceJ, R.Denotes s ⟨q.vj, q.qj⟩ (R.before n).regs[r]
  operandK : R.Denotes s ⟨q.vk, q.qk⟩ (R.before n).regs[(R.instr n).sourceK]
  offset : q.a = (R.instr n).displacement R.cfg

/-- The machine runs the instructions of `R` and has committed the oldest of them with the effect they have alone; what it
holds for those in flight is what they would find and produce alone. -/
structure Reference.Agrees (R : Reference) (s : State) : Prop where
  cfg : s.cfg = R.cfg
  program : ∀ n w, s.prog[n]? = some w → decode s.cfg.offw w = .instr (R.instr n)
  arch : s.arch = R.before s.committed
  entries : ∀ p n, (s.entry p).instructionIndex = some n → R.EntryAgrees (s.entry p) n
  stations : ∀ id ∈ s.cfg.stationOrder, (s.station id).busy = true → ∀ n, (s.station id).instructionIndex = some n →
    R.StationAgrees s (s.station id) n

variable {R : Reference} {s t : State} {i n b : Nat} {id : StationId} {rest : List Nat} {k : Kind}

/-! What carries over from one state to another -/

theorem Reference.Denotes.congr {o : Operand} {v : Int} (h : R.Denotes s o v)
    (hage : ∀ p ∈ o.q, (t.entry p).age = (s.entry p).age) : R.Denotes t o v :=
  ⟨h.value, fun p hp => (congrArg R.result (hage p hp)).trans (h.tag p hp)⟩

theorem Reference.StationAgrees.congr {q : Station} (h : R.StationAgrees s q n)
    (hage : ∀ p, q.qj = some p ∨ q.qk = some p → (t.entry p).age = (s.entry p).age) : R.StationAgrees t q n where
  op := h.op
  operandJ r hr := (h.operandJ r hr).congr fun p hp => hage p (.inl hp)
  operandK := h.operandK.congr fun p hp => hage p (.inr hp)
  offset := h.offset

/-- An entry that keeps its instruction still agrees, if no result is written into it. -/
theorem Reference.EntryAgrees.congr {e e' : RobEntry} (h : R.EntryAgrees e n) (hsame : e.SameInstruction e')
    (hwritten : e'.state = .wroteResult → e.state = .wroteResult ∧ e'.value = e.value ∧ e'.address = e.address) :
    R.EntryAgrees e' n where
  kind := hsame.kind.trans h.kind
  dest := hsame.dest.trans h.dest
  value hst := by
    obtain ⟨hst', hvalue, -⟩ := hwritten hst
    exact hvalue.trans (h.value hst')
  address hst hstore := by
    obtain ⟨hst', -, haddress⟩ := hwritten hst
    exact haddress.trans (h.address hst' hstore)

/-- The tag of a busy station names a pending entry. -/
theorem MidCycle.tag_pending (h : MidCycle s) (hid : id ∈ s.cfg.stationOrder) (hbusy : (s.station id).busy = true)
    {p : Nat} (hp : (s.station id).qj = some p ∨ (s.station id).qk = some p) : (s.entry p).Pending := by
  obtain hj | hk := hp
  · obtain ⟨-, hpend, -⟩ := h.operands.tagJ id hid hbusy p hj
    exact hpend
  · obtain ⟨-, hpend, -⟩ := h.operands.tagK id hid hbusy p hk
    exact hpend

/-! Commit -/

/-- What Commit of a ready head does to registers and memory (R178, R180). -/
theorem commit_arch (h : commit s = .next t) (hready : s.commitReady = true) :
    (s.entry s.head).kind = some .store ∧
      t.arch = ⟨s.regs, memWrite s.cfg s.mem (s.entry s.head).address (s.entry s.head).value⟩ ∨
    ∃ r, (s.entry s.head).destinationRegister = some r ∧ t.arch = ⟨s.regs.set r (s.entry s.head).value, s.mem⟩ := by
  obtain ⟨hwait, -⟩ | ⟨-, i, -, ⟨hstore, rfl⟩ | ⟨-, -, r, hdest, rfl⟩⟩ := commit_cases h
  · simp [hwait] at hready
  · exact .inl ⟨hstore, rfl⟩
  · rw [State.commitRegister, unrename_eq]
    exact .inr ⟨r, hdest, rfl⟩

/-- The retiring instruction has the effect it has alone. -/
theorem HeadRetires.arch_agrees (h : HeadRetires s i) (ha : R.Agrees s) (hready : s.commitReady = true)
    (hc : commit s = .next t) : t.arch = R.before (i + 1) := by
  obtain ⟨hkind, hdest, hvalue, haddress⟩ := ha.entries _ _ h.live.index
  have harch : s.arch = R.before i := ha.arch.trans (congrArg R.before h.index.symm)
  have hregs : s.regs = (R.before i).regs := congrArg ArchState.regs harch
  have hmem : s.mem = (R.before i).mem := congrArg ArchState.mem harch
  obtain ⟨hstore, heq⟩ | ⟨r, hr, heq⟩ := commit_arch hc hready
  · have hstore' : (R.instr i).kind = .store := Option.some.inj (hkind.symm.trans hstore)
    rw [heq, Reference.before_succ_of_store hstore', hvalue h.written, haddress h.written hstore', hregs, hmem, ha.cfg]
  · rw [heq, Reference.before_succ_of_dest (hdest.symm.trans hr), hvalue h.written, hregs, hmem]

theorem commit_agrees (h : PipelineInvariant s) (ha : R.Agrees s) (hc : commit s = .next t) : R.Agrees t := by
  have hcommitted := commit_committed h hc
  obtain rfl | ⟨hready, i, status, regs, mem, events, hi, -, rfl⟩ := commit_retires hc h.store_has_no_destination
  · exact ha
  · have hretires := h.headRetires hready hi
    refine ⟨ha.cfg, ha.program, ?arch, fun p n hn => ?entries, fun id hid hbusy n hn => ?stations⟩
    case arch =>
      rw [hcommitted hretires.written, hretires.arch_agrees ha hready hc, hretires.index]
      rfl
    case entries =>
      change ((s.retired i status).entry p).instructionIndex = some n at hn
      change R.EntryAgrees ((s.retired i status).entry p) n
      obtain ⟨-, heq⟩ := HeadRetires.entry_before (s := s) (i := i) (status := status) (p := p)
        (by rintro hempty; simp [hempty] at hn)
      rw [heq] at hn ⊢
      exact ha.entries p n hn
    case stations =>
      refine (ha.stations id hid hbusy n hn).congr fun p hp => congrArg RobEntry.age ?_
      exact hretires.entry_of_pending (status := status) (h.midCycle.tag_pending hid hbusy hp)

/-! Write-Result -/

/-- Write-Result waits for an empty queue, or takes its front and writes what the station computes (R155 to R167). -/
theorem writeResult_computes (h : MidCycle s) (hw : writeResult s = .next t) :
    t = s ∨ ∃ b id i rest k events, Writes s b id i rest ∧ (s.station id).op = some k ∧
      t = (s.wroteBack b id i rest (compute s.cfg s.mem k (s.station id) i)).withArch s.regs s.mem events := by
  obtain ⟨-, rfl⟩ | ⟨b, rest, id, k, i, hq, hloc, hop, hi, rfl⟩ := writeResult_cases hw
  · exact .inl rfl
  · obtain ⟨hid, hbusy, hdest⟩ := locateStation_spec hloc
    have hwrites : Writes s b id i rest := ⟨h, hq, hid, hbusy, hdest, hi⟩
    have hguard : (((s.setCdbq rest).wroteEntry b id k i).entry b).busy = true :=
      wroteEntry_busy (s := s.setCdbq rest) (h.shape.robLength ▸ hwrites.b_lt) hwrites.entry_busy
    refine .inr ⟨b, id, i, rest, k, s.diagOut ++ (compute s.cfg s.mem k (s.station id) i).events, hwrites, hop, ?_⟩
    rw [writeBack_eq, State.broadcast, if_pos hguard]
    rfl

/-- The operand slot that a broadcast leaves. -/
theorem Reference.Denotes.received {v x result : Int} {q : Option Nat} (h : R.Denotes s ⟨v, q⟩ x)
    (hresult : result = R.result (s.entry b).age) (hage : ∀ p, (t.entry p).age = (s.entry p).age) :
    R.Denotes t ⟨if q = some b then result else v, if q = some b then none else q⟩ x := by
  by_cases hq : q = some b
  · simp only [if_pos hq]
    exact ⟨fun _ => hresult.trans (h.tag b hq), nofun⟩
  · simp only [if_neg hq]
    exact h.congr fun p _ => hage p

theorem Reference.StationAgrees.received {q : Station} {result : Int} (h : R.StationAgrees s q n)
    (hbusy : q.busy = true) (hresult : result = R.result (s.entry b).age)
    (hage : ∀ p, (t.entry p).age = (s.entry p).age) : R.StationAgrees t (q.receive b result) n := by
  refine ⟨?op, fun r hr => ?operandJ, ?operandK, ?offset⟩
  case op => exact (receive_op b result q).trans h.op
  case operandJ =>
    rw [receive_vj _ hbusy, receive_qj _ hbusy]
    exact (h.operandJ r hr).received hresult hage
  case operandK =>
    rw [receive_vk _ hbusy, receive_qk _ hbusy]
    exact h.operandK.received hresult hage
  case offset => exact (receive_a b result q).trans h.offset

namespace Writes

variable (h : Writes s b id i rest) (ha : R.Agrees s) (hop : (s.station id).op = some k)
include h ha hop

/-- A station that has both operands computes what its instruction produces alone; a LOAD has to be fresh. -/
theorem result_agrees (hfresh : R.LoadFresh s.committed i) :
    (compute s.cfg s.mem k (s.station id) i).result = R.result i := by
  obtain ⟨hop', hj, hk, ha'⟩ := ha.stations id h.mem h.busy i h.index
  obtain ⟨-, -, hreadyJ, hreadyK, -⟩ := h.running
  obtain ⟨j, -, -, hi, -⟩ := h.inv.station_place h.mem h.busy h.dest h.index
  have hmem : s.mem = (R.before s.committed).mem := congrArg ArchState.mem ha.arch
  have hle : s.committed ≤ i := hi ▸ Nat.le_add_right _ j
  obtain rfl : k = (R.instr i).kind := Option.some.inj (hop.symm.trans hop')
  rw [ha.cfg, compute_result i (fun r hr => (hj r hr).value hreadyJ) (hk.value hreadyK) ha', hmem]
  exact hfresh.result_eq hle

theorem address_agrees (hstore : (R.instr i).kind = .store) :
    (compute s.cfg s.mem k (s.station id) i).address = some (R.target i) := by
  obtain ⟨hop', -, hk, ha'⟩ := ha.stations id h.mem h.busy i h.index
  obtain ⟨-, -, -, hreadyK, -⟩ := h.running
  obtain rfl : k = (R.instr i).kind := Option.some.inj (hop.symm.trans hop')
  rw [ha.cfg]
  exact compute_address_of_store i hstore (hk.value hreadyK) ha'

omit hop in
/-- With the result and the address that the instruction has alone, the tables afterwards agree. -/
theorem wroteBack_agrees {c : Computed} (hresult : c.result = R.result i)
    (haddress : (R.instr i).kind = .store → c.address = some (R.target i)) : R.Agrees (s.wroteBack b id i rest c) := by
  obtain ⟨j, -, -, -, hlive⟩ := h.inv.station_place h.mem h.busy h.dest h.index
  refine ⟨ha.cfg, ha.program, ha.arch, fun p n hn => ?entries, fun id' hid' hbusy n hn => ?stations⟩
  case entries =>
    have hsame := h.sameInstruction (c := c) p
    rw [hsame.index] at hn
    have hbefore := ha.entries p n hn
    by_cases hp : p = b
    · subst hp
      obtain rfl : i = n := Option.some.inj (hlive.index.symm.trans hn)
      rw [h.entry_self]
      refine ⟨hbefore.kind, hbefore.dest, fun _ => hresult, fun _ hstore => ?_⟩
      rw [RobEntry.wrote, haddress hstore, Option.getD_some]
    · refine hbefore.congr hsame fun hst => ?_
      rw [h.state_of_ne hp] at hst
      have hnot : ¬ mirrorsInto b s.rs.toList p = true := fun hm => by
        simpa [RobEntry.Pending, hst] using (h.pending_of_mirrors hm).2
      rw [h.entry_of_ne hp, if_neg hnot]
      exact ⟨hst, rfl, rfl⟩
  case stations =>
    obtain ⟨hne, hbusy'⟩ := h.station_before hbusy
    rw [h.station_of_ne hne] at hn ⊢
    rw [receive_instructionIndex] at hn
    refine (ha.stations id' hid' hbusy' n hn).received hbusy' ?_ fun p => (h.sameInstruction p).age
    rw [hlive.age_eq, hresult]

end Writes

theorem Reference.Agrees.withEvents (h : R.Agrees s) (events : List Diagnostic) :
    R.Agrees (s.withArch s.regs s.mem events) :=
  ⟨h.cfg, h.program, h.arch, h.entries, fun id hid hbusy n hn => (h.stations id hid hbusy n hn).congr fun _ _ => rfl⟩

/-- Write-Result keeps the agreement, if the LOAD at the front of the queue is fresh. -/
theorem writeResult_agrees (h : MidCycle s) (ha : R.Agrees s) (hw : writeResult s = .next t)
    (hfresh : ∀ b ∈ s.cdbq.head?, R.LoadFresh s.committed (s.entry b).age) : R.Agrees t := by
  obtain rfl | ⟨b, id, i, rest, k, events, hwrites, hop, rfl⟩ := writeResult_computes h hw
  · exact ha
  · obtain ⟨j, -, -, -, hlive⟩ := h.station_place hwrites.mem hwrites.busy hwrites.dest hwrites.index
    have hload : R.LoadFresh s.committed i := by
      rw [← hlive.age_eq]
      exact hfresh b (by rw [hwrites.front]; rfl)
    have hresult := hwrites.result_agrees ha hop hload
    exact (hwrites.wroteBack_agrees ha hresult (hwrites.address_agrees ha hop)).withEvents events

end Sys2Proof.Machine
end

section
/-! PROOF. Issue, Execute-Start and Execute-Advance keep the agreement with sequential execution: what Issue captures is
what the instruction would find alone (R126, R130, R132). -/

namespace Sys2Proof.Machine

variable {R : Reference} {s t : State} {i : Instr} {k : Kind} {dest : Option RegIdx} {id : StationId} {q : Station}
  {e : RobEntry}

/-! The operands at Issue -/

/-- The operand slots of station `q` hold the operands of the two registers, and `A` holds `a` (R127 to R129). -/
structure State.Wired (s : State) (sourceJ : Option RegIdx) (sourceK : RegIdx) (a : Int) (q : Station) : Prop where
  slotJ : ∀ r ∈ sourceJ, ⟨q.vj, q.qj⟩ = s.operand r
  slotK : ⟨q.vk, q.qk⟩ = s.operand sourceK
  offset : q.a = a

namespace CanIssue

variable (h : CanIssue s k id)
include h

/-- A busy row names a busy entry, which is not the free tail slot (R45). -/
theorem readable (r : RegIdx) : s.readable r := by
  intro hbusy
  obtain ⟨p, -, hp, hpbusy, -⟩ := h.inv.rename.producer r hbusy
  rw [hp]
  exact ⟨Option.some_ne_none p, fun heq => h.ne_tail_of_busy hpbusy (Option.some.inj heq)⟩

theorem operand_of_capture {r : RegIdx} {o : Operand}
    (ho : capture ((s.allocateEntry k dest).setStation id q) r = some o) : o = s.operand r :=
  Option.some.inj (ho.symm.trans (capture_begun_of_readable (h.readable r) q))

end CanIssue

theorem issueArith_wires {rd rs1 rs2 : RegIdx} (h : MidCycle s) (hload : k ≠ .load) (hstore : k ≠ .store)
    (hi : issueArith k rd rs1 rs2 s = .next t) : t = s ∨ ∃ id q e, Issues s k (some rd) id q e ∧
      s.Wired (some rs1) rs2 0 q ∧ t = s.afterIssue (some rd) id q e := by
  obtain ⟨-, rfl⟩ | ⟨id, s1, o1, o2, hb, h1, h2, rfl⟩ := issueArith_cases hi
  · exact .inl rfl
  · obtain ⟨hcan, rfl⟩ := beginIssue_canIssue h hb
    rw [hcan.station_begun, issue_tables]
    refine .inr ⟨id, _, _, hcan.issues_arith hload hstore (hcan.capture_fits h1) (hcan.capture_fits h2), ?_, rfl⟩
    exact ⟨fun r hr => Option.some.inj hr ▸ hcan.operand_of_capture h1, hcan.operand_of_capture h2, rfl⟩

/-- Issue stalls, or changes the tables as `Issues` says, with the instruction's operands in the station (R126 to
R129). -/
theorem exec_wires (h : MidCycle s) (hi : exec i s = .next t) : t = s ∨ ∃ id q e, Issues s i.kind i.dest id q e ∧
    s.Wired i.sourceJ i.sourceK (i.displacement s.cfg) q ∧ t = s.afterIssue i.dest id q e := by
  cases i with
  | add rd rs1 rs2 => exact issueArith_wires h nofun nofun hi
  | sub rd rs1 rs2 => exact issueArith_wires h nofun nofun hi
  | mul rd rs1 rs2 => exact issueArith_wires h nofun nofun hi
  | div rd rs1 rs2 => exact issueArith_wires h nofun nofun hi
  | load rd offset base =>
    obtain ⟨-, rfl⟩ | ⟨id, s1, o, hb, ho, rfl⟩ := issueLoad_cases hi
    · exact .inl rfl
    · obtain ⟨hcan, rfl⟩ := beginIssue_canIssue h hb
      rw [hcan.station_begun, issue_tables]
      refine .inr ⟨id, _, _, hcan.issues_load _ (hcan.capture_fits ho), ?_, rfl⟩
      exact ⟨nofun, hcan.operand_of_capture ho, rfl⟩
  | store rsrc offset base =>
    obtain ⟨-, rfl⟩ | ⟨id, s1, od, ob, hb, hd, ho, rfl⟩ := issueStore_cases hi
    · exact .inl rfl
    · obtain ⟨hcan, rfl⟩ := beginIssue_canIssue h hb
      have hfits := hcan.capture_fits hd
      rw [hcan.station_begun, issueStore_tables hcan _ _ hfits.value]
      refine .inr ⟨id, _, _, hcan.issues_store _ hfits (hcan.capture_fits ho), ?_, rfl⟩
      exact ⟨fun r hr => Option.some.inj hr ▸ hcan.operand_of_capture hd, hcan.operand_of_capture ho, rfl⟩

/-! What an operand denotes -/

/-- Each instruction in flight has its entry, with its destination. -/
theorem Reference.Agrees.entry_in_flight (ha : R.Agrees s) (h : MidCycle s) {n : Nat} (hlow : s.committed ≤ n)
    (hhigh : n < s.pc) : ∃ p < s.cfg.robSize, (s.entry p).age = n ∧
      (s.entry p).destinationRegister = (R.instr n).dest := by
  have hissued := h.queue.issued
  unfold State.committed at hlow
  have hlive := h.queue.live (n - (s.pc - s.inFlight)) (by omega)
  rw [Nat.add_sub_cancel' hlow] at hlive
  exact ⟨_, slot_lt h.shape _, hlive.age_eq, (ha.entries _ n hlive.index).dest⟩

/-- A register without a producer in flight holds what the instruction at `pc` would find alone. -/
theorem Reference.Agrees.reg_of_idle (ha : R.Agrees s) (h : MidCycle s) {r : RegIdx}
    (hidle : (s.rename r).busy = false) : (R.before s.pc).regs[r] = s.reg r := by
  have hregs : s.regs = (R.before s.committed).regs := congrArg ArchState.regs ha.arch
  rw [State.reg, hregs]
  refine Reference.reg_before_of_unwritten (Nat.sub_le _ _) fun n hlow hhigh hdest => ?_
  obtain ⟨p, hp, -, hd⟩ := ha.entry_in_flight h hlow hhigh
  obtain ⟨hbusy, -⟩ := h.rename.youngest r p hp (hd.trans hdest)
  exact Bool.false_ne_true (hidle.symm.trans hbusy)

/-- The producer that a busy row names produces what the instruction at `pc` would find alone: it is the youngest one
(R53). -/
theorem Reference.Agrees.result_of_producer (ha : R.Agrees s) (h : MidCycle s) {r : RegIdx} {p : Nat}
    (hbusy : (s.rename r).busy = true) (hp : (s.rename r).robIndex = some p) :
    ∃ n, (s.entry p).instructionIndex = some n ∧ (R.before s.pc).regs[r] = R.result n := by
  obtain ⟨p', -, hp', hentry, hdest⟩ := h.rename.producer r hbusy
  obtain rfl : p' = p := Option.some.inj (hp'.symm.trans hp)
  obtain ⟨j, hj, -, hlive⟩ := h.queue.place h.shape (RobEntry.ne_empty_of_busy hentry)
  refine ⟨_, hlive.index, ?_⟩
  have hwrites : (R.instr (s.pc - s.inFlight + j)).dest = some r := (ha.entries _ _ hlive.index).dest.symm.trans hdest
  rw [← Reference.reg_before_succ hwrites]
  refine Reference.reg_before_of_unwritten (h.queue.index_lt_pc hj) fun n hlow hhigh hd => ?_
  obtain ⟨p, hlt, hage, hd'⟩ := ha.entry_in_flight h (n := n) (by unfold State.committed; omega) hhigh
  obtain ⟨-, hyoungest⟩ := h.rename.youngest r p hlt (hd'.trans hd)
  have hle := hyoungest p' hp
  rw [hage, hlive.age_eq] at hle
  omega

theorem Reference.Agrees.operand_denotes (ha : R.Agrees s) (h : MidCycle s) (r : RegIdx) :
    R.Denotes s (s.operand r) (R.before s.pc).regs[r] := by
  unfold State.operand
  cases hbusy : (s.rename r).busy with
  | false =>
    rw [ha.reg_of_idle h hbusy]
    exact ⟨fun _ => rfl, nofun⟩
  | true =>
    obtain ⟨p, -, hp, -⟩ := h.rename.producer r hbusy
    obtain ⟨n, hn, hreg⟩ := ha.result_of_producer h hbusy hp
    simp only [hp, Option.getD_some, Bool.true_eq_false, if_false]
    rw [hreg]
    split
    · next hforward =>
      obtain ⟨-, hwritten, -⟩ := hforward
      exact ⟨fun _ => (ha.entries p n hn).value hwritten, nofun⟩
    · refine ⟨nofun, fun p' hp' => ?_⟩
      obtain rfl := Option.some.inj hp'
      rw [RobEntry.age, hn, Option.getD_some]

/-! Issue -/

/-- The instruction that issues takes a station that agrees and an entry without a result. -/
theorem Issues.agrees (h : Issues s (R.instr s.pc).kind (R.instr s.pc).dest id q e) (ha : R.Agrees s)
    (hw : s.Wired (R.instr s.pc).sourceJ (R.instr s.pc).sourceK ((R.instr s.pc).displacement s.cfg) q) :
    R.Agrees (s.afterIssue (R.instr s.pc).dest id q e) := by
  have hage {p : Nat} (hp : (s.entry p).Pending) :
      ((s.afterIssue (R.instr s.pc).dest id q e).entry p).age = (s.entry p).age :=
    congrArg RobEntry.age (h.entry_of_pending hp)
  refine ⟨ha.cfg, ha.program, ?arch, fun p n hn => ?entries, fun id' hid' hbusy n hn => ?stations⟩
  case arch =>
    rw [State.committed, h.inFlight_after]
    exact ha.arch.trans (congrArg R.before (Nat.add_sub_add_right _ 1 _).symm)
  case entries =>
    rw [h.entry_after] at hn ⊢
    split at hn
    · next heq =>
      obtain rfl : s.pc = n := Option.some.inj (h.live.index.symm.trans hn)
      rw [if_pos heq]
      exact ⟨h.entry_kind, h.entry_dest, by simp [h.state], by simp [h.state]⟩
    · next hne =>
      rw [if_neg hne]
      exact ha.entries p n hn
  case stations =>
    rw [h.station_after] at hbusy hn ⊢
    split at hn
    · next heq =>
      obtain rfl : s.pc = n := Option.some.inj (h.index.symm.trans hn)
      rw [if_pos heq]
      refine ⟨h.op, fun r hr => ?_, ?_, hw.offset.trans (by rw [ha.cfg])⟩
      · refine Reference.Denotes.congr (s := s) ?_ fun p hp => hage (h.operandJ.tag p hp).2.1
        rw [hw.slotJ r hr]
        exact ha.operand_denotes h.inv r
      · refine Reference.Denotes.congr (s := s) ?_ fun p hp => hage (h.operandK.tag p hp).2.1
        rw [hw.slotK]
        exact ha.operand_denotes h.inv _
    · next hne =>
      rw [if_neg hne] at hbusy ⊢
      exact (ha.stations id' hid' hbusy n hn).congr fun p hp => hage (h.inv.tag_pending hid' hbusy hp)

theorem issuePhase_agrees (h : MidCycle s) (ha : R.Agrees s) (hi : issuePhase s = .next t) : R.Agrees t := by
  obtain ⟨-, rfl⟩ | ⟨w, i, hw, hd, he⟩ | ⟨w, why, hw, hd, -⟩ := issuePhase_cases hi
  · exact ha
  · obtain rfl : i = R.instr s.pc := Decoded.instr.inj (hd.symm.trans (ha.program s.pc w hw))
    obtain rfl | ⟨id, q, e, hissues, hwired, rfl⟩ := exec_wires h he
    · exact ha
    · exact hissues.agrees ha hwired
  · cases hd.symm.trans (ha.program s.pc w hw)

/-! Execute -/

theorem Dispatches.agrees {b n : Nat} {lat : Int} (h : Dispatches s id b n) (ha : R.Agrees s) :
    R.Agrees (s.dispatchedTo id b n lat) := by
  refine ⟨ha.cfg, ha.program, ha.arch, fun p m hm => ?entries, fun id' hid' hbusy m hm => ?stations⟩
  case entries =>
    have hsame := h.sameInstruction (lat := lat) p
    rw [hsame.index] at hm
    refine (ha.entries p m hm).congr hsame fun hst => ?_
    rw [h.entry] at hst ⊢
    split at hst
    · cases hst
    · next hne =>
      rw [if_neg hne]
      exact ⟨hst, rfl, rfl⟩
  case stations =>
    exact (ha.stations id' hid' hbusy m hm).congr fun p _ => (h.sameInstruction p).age

theorem executeStart_agrees (h : MidCycle s) (ha : R.Agrees s) (he : executeStart s = .next t) : R.Agrees t := by
  have hscan := legal_scanOrder_perm h.shape.legal
  have hloop : (∃ visited, Dispatching s.cfg visited t) ∧ R.Agrees t := by
    refine forEach_keeps (P := fun u => (∃ visited, Dispatching s.cfg visited u) ∧ R.Agrees u)
      (fun id hid u v hu hv => ?_) ⟨⟨[], h, rfl, by simp⟩, ha⟩ he
    obtain ⟨⟨visited, hdisp⟩, hagrees⟩ := hu
    have hmem := hscan.mem_iff.mp hid
    refine ⟨⟨_, dispatchStation_dispatching hdisp hmem hv⟩, ?_⟩
    obtain ⟨-, rfl⟩ | ⟨b, n, lat, hdispatches, rfl⟩ :=
      dispatchStation_dispatches hdisp.inv (hdisp.cfg.symm ▸ hmem) hv
    · exact hagrees
    · exact hdispatches.agrees hagrees
  exact hloop.2

theorem executeAdvance_agrees (ha : R.Agrees s) (he : executeAdvance s = .next t) : R.Agrees t := by
  obtain ⟨cdbq, stamp, rfl⟩ := forEach_complete_frame he
  exact ⟨ha.cfg, ha.program, ha.arch, ha.entries,
    fun id hid hbusy n hn => (ha.stations id hid hbusy n hn).congr fun _ _ => rfl⟩

end Sys2Proof.Machine
end

section
/-! PROOF. A run ends as sequential execution does (R185, R254, R256): every step keeps the agreement as long as no LOAD
reads past an older STORE to its word, and a state that is done has committed every instruction. -/

namespace Sys2Proof.Machine

variable {R : Reference} {s t : State} {c : Config} {x : ArchState} {is : List Instr} {program : List InstrWord} {n : Nat}

/-! The step -/

/-- A step keeps the agreement, if the LOAD that writes its result in it reads no word of an older STORE that has not
committed by then (R69). -/
theorem Reference.Agrees.step (ha : R.Agrees s) (h : PipelineInvariant s) (ht : step s = .next t)
    (hfresh : ∀ b ∈ s.cdbq.head?, R.LoadFresh t.committed (s.entry b).age) : R.Agrees t := by
  obtain ⟨s1, s2, s3, s4, s5, hcycle, rfl⟩ := h.cyclePhases ht
  have h0 : PipelineInvariant s.clearEvents := h.withArch
  have ha0 : R.Agrees s.clearEvents := ha.withEvents []
  have ha1 : R.Agrees s1 := commit_agrees h0 ha0 hcycle.commit
  have ha2 : R.Agrees s2 := by
    refine writeResult_agrees hcycle.mid1 ha1 hcycle.write fun b hb => ?_
    rw [(commit_keeps_execution hcycle.commit).2] at hb
    have hexecuting : (s.entry b).state = .executing :=
      h.midCycle.tracked.queued_executing (List.mem_of_mem_head? hb)
    have hpending : (s.entry b).state ≠ .wroteResult := by simp [hexecuting]
    have hentry : s1.entry b = s.entry b := (commit_entry_of_not_written h0 hcycle.commit hpending :)
    have hcommitted : s5.committed = s1.committed := hcycle.oldestKept.committed
    rw [hentry, ← hcommitted]
    exact hfresh b hb
  have ha3 : R.Agrees s3 := issuePhase_agrees hcycle.mid2 ha2 hcycle.issue
  have ha4 : R.Agrees s4 := executeStart_agrees hcycle.mid3 ha3 hcycle.start
  have ha5 : R.Agrees s5 := executeAdvance_agrees ha4 hcycle.advance
  exact ⟨ha5.cfg, ha5.program, ha5.arch, ha5.entries,
    fun id hid hbusy n hn => (ha5.stations id hid hbusy n hn).congr fun _ _ => rfl⟩

theorem Reference.Agrees.run (ha : R.Agrees s) (h : PipelineInvariant s) (hfresh : ∀ m n, R.LoadFresh m n)
    (hrun : Host.Core.run Sys2Proof.core n s = .next t) : PipelineInvariant t ∧ R.Agrees t ∧ t.prog = s.prog := by
  induction n generalizing s with
  | zero =>
    cases hrun
    exact ⟨h, ha, rfl⟩
  | succ n ih =>
    obtain ⟨u, hu⟩ := step_completes h
    obtain ⟨hprog, -⟩ := stepKeepsProgramAndConfiguration s u hu
    rw [run_succ_of_step (M := Sys2Proof.core) hu] at hrun
    rw [← hprog]
    exact ih (ha.step h hu fun _ _ => hfresh _ _) (runCycle_keeps_invariant h hu) hrun

/-- In a state that is done every instruction has committed (R104). -/
theorem committed_of_done (h : s.done = true) : s.committed = s.prog.length := by
  obtain ⟨-, havailable, -, -, hpc⟩ := done_iff.mp h
  rw [State.committed, State.inFlight, havailable, Nat.sub_self, Nat.sub_zero, hpc]

/-! The reference of a program -/

/-- The reference of the instructions `is` from `x`; after the last one it goes on with ADDs, which no program store
holds. -/
def programReference (c : Config) (x : ArchState) (is : List Instr) : Reference where
  cfg := c
  start := x
  instr n := is.getD n (.add 0 0 0)

theorem instr_programReference (hn : n < is.length) : (programReference c x is).instr n = is[n] :=
  List.getD_eq_getElem _ _ hn

/-- The reference is the sequential execution of `execAll`. -/
theorem before_programReference (hn : n ≤ is.length) :
    (programReference c x is).before n = x.execAll c (is.take n) := by
  induction n with
  | zero => rfl
  | succ n ih =>
    rw [Reference.before, ih (Nat.le_of_succ_le hn), instr_programReference hn, List.take_succ_eq_append_getElem hn,
      ArchState.execAll, ArchState.execAll, List.foldl_append]
    rfl

theorem getElem?_accesses :
    (x.accesses c is)[n]? = is[n]?.map fun i => (x.execAll c (is.take n)).access c i := by
  induction is generalizing x n with
  | nil => rfl
  | cons i is ih =>
    cases n with
    | zero => rfl
    | succ n => exact ih

theorem getElem?_accesses_programReference (hn : n < is.length) : (x.accesses c is)[n]? =
    some (((programReference c x is).before n).access c ((programReference c x is).instr n)) := by
  rw [getElem?_accesses, before_programReference hn.le, instr_programReference hn, List.getElem?_eq_getElem hn]
  rfl

/-- Where the accesses of sequential execution show no LOAD of a word that an older STORE targets, every instruction of
the reference is fresh (R256, first bullet). -/
theorem programReference_loadFresh (h : NoAliasedLoadAfterStore (x.accesses c is)) (m n : Nat) :
    (programReference c x is).LoadFresh m n := by
  intro hload hvalid k _ hkn hstore htarget
  have hn : n < is.length := by
    by_contra hge
    simp [programReference, Nat.le_of_not_lt hge, Instr.kind] at hload
  have hyounger : (x.accesses c is)[n]? = some (some (.load, (programReference c x is).target n)) :=
    (getElem?_accesses_programReference hn).trans (congrArg some (access_of_load hload hvalid))
  rw [← htarget] at hvalid hyounger
  have holder : (x.accesses c is)[k]? = some (some (.store, (programReference c x is).target k)) :=
    (getElem?_accesses_programReference (hkn.trans hn)).trans (congrArg some (access_of_store hstore hvalid))
  obtain ⟨hk, holder⟩ := List.getElem?_eq_some_iff.mp holder
  obtain ⟨hn, hyounger⟩ := List.getElem?_eq_some_iff.mp hyounger
  exact List.pairwise_iff_getElem.mp h k n hk hn hkn _ holder hyounger

/-- The reset state agrees with the reference of its program: nothing is in flight, nothing has committed. -/
theorem resetWith_agrees (hdecode : program.map (decode c.offw) = is.map Decoded.instr) :
    (programReference c (State.resetWith c program).arch is).Agrees (State.resetWith c program) where
  cfg := rfl
  program n w hw := by
    have hword : (program.map (decode c.offw))[n]? = some (decode c.offw w) := by
      rw [List.getElem?_map, show program[n]? = some w from hw]
      rfl
    rw [hdecode, List.getElem?_map, Option.map_eq_some_iff] at hword
    obtain ⟨i, hi, heq⟩ := hword
    change decode c.offw w = .instr (is.getD n (.add 0 0 0))
    rw [← heq, List.getD_eq_getElem?_getD, hi]
    rfl
  arch := by
    rw [State.committed, inFlight_resetWith]
    rfl
  entries p n hn := by simp at hn
  stations id _ hbusy := by simp at hbusy

/-- Settles O50: at the end every instruction has committed, with the effect it has alone. -/
theorem runEndsAsSequentialExecution : Obligations.RunEndsAsSequentialExecution := by
  intro c program is n t hc hdecode hnoalias hrun hdone
  obtain ⟨-, ha, hprog⟩ :=
    (resetWith_agrees hdecode).run (resetWith_invariant hc) (programReference_loadFresh hnoalias) hrun
  have hlength : t.committed = is.length := by
    rw [committed_of_done hdone, hprog]
    exact (List.length_map _).symm.trans ((congrArg List.length hdecode).trans (List.length_map _))
  rw [ha.arch, hlength, before_programReference le_rfl, List.take_length]

end Sys2Proof.Machine
end

section
/-! PROOF. Division rounds toward zero (R193, R196): the quotient of representable operands is representable but for
INT_MIN / -1. -/

namespace Sys2Proof.Machine

variable {xlen : Nat} {x y : Int}

theorem inRange_iff_bounds :
    InRange xlen x ↔ -((2 ^ (xlen - 1) : Nat) : Int) ≤ x ∧ x < ((2 ^ (xlen - 1) : Nat) : Int) := by
  unfold InRange intMin intMax
  omega

/-- A divisor other than 1 and -1 at least halves the magnitude. -/
theorem natAbs_tdiv_mul_two_le (hy : 2 ≤ y.natAbs) : (x.tdiv y).natAbs * 2 ≤ x.natAbs := by
  rw [Int.natAbs_tdiv]
  exact (Nat.mul_le_mul_left _ hy).trans (Nat.div_mul_le_self _ _)

/-- The quotient leaves the range at INT_MIN / -1 only (R196). -/
theorem inRange_tdiv (hx : InRange xlen x) (hy : y ≠ 0) (hoverflow : ¬ (x = intMin xlen ∧ y = -1)) :
    InRange xlen (x.tdiv y) := by
  rw [inRange_iff_bounds] at hx ⊢
  rw [intMin] at hoverflow
  obtain rfl | rfl | hlarge : y = 1 ∨ y = -1 ∨ 2 ≤ y.natAbs := by omega
  · rwa [Int.tdiv_one]
  · rw [Int.tdiv_neg, Int.tdiv_one]
    omega
  · have hhalf := natAbs_tdiv_mul_two_le (x := x) hlarge
    have hpos := Nat.two_pow_pos (xlen - 1)
    omega

/-- What truncation leaves: a remainder smaller than the divisor, zero or of the dividend's sign (R196). -/
theorem tmod_of_truncation (x : Int) (hy : y ≠ 0) :
    x = x.tdiv y * y + x.tmod y ∧ |x.tmod y| < |y| ∧
      (x.tmod y = 0 ∨ (0 < x.tmod y ∧ 0 < x) ∨ (x.tmod y < 0 ∧ x < 0)) := by
  refine ⟨(Int.tdiv_mul_add_tmod x y).symm, ?small, ?sign⟩
  case small =>
    rw [Int.abs_eq_natAbs, Int.abs_eq_natAbs, Int.natAbs_tmod]
    exact_mod_cast Nat.mod_lt _ (Int.natAbs_pos.mpr hy)
  case sign =>
    rcases lt_trichotomy x 0 with hx | rfl | hx
    · have hneg := Int.tmod_nonneg y (Int.neg_nonneg_of_nonpos hx.le)
      rw [Int.neg_tmod] at hneg
      omega
    · exact .inl (Int.zero_tmod y)
    · have hnonneg := Int.tmod_nonneg y hx.le
      omega

/-- INT_MIN / -1 is INT_MAX + 1, which wraps to INT_MIN (R196). -/
theorem wrap_intMin_tdiv_neg_one (hx : 1 ≤ xlen) : wrap xlen ((intMin xlen).tdiv (-1)) = intMin xlen := by
  have hpow : 2 ^ (xlen - 1) * 2 = 2 ^ xlen := Nat.two_pow_pred_mul_two hx
  have hpos := Nat.two_pow_pos (xlen - 1)
  rw [Int.tdiv_neg, Int.tdiv_one, wrap_eq_iff hx, inRange_iff_bounds, intMin]
  exact ⟨by omega, -1, by omega⟩

theorem divResult_of_ne_zero {c : Config} (hround : c.divRound = .towardZero) (hy : y ≠ 0) :
    divResult c x y = wrap c.xlen (x.tdiv y) := by
  rw [divResult, if_neg hy, hround]
  rfl

/-- Settles O53: but for the overflow `wrap` leaves the quotient alone. -/
theorem divisionRoundsTowardZero : Obligations.DivisionRoundsTowardZero := by
  intro c x y hround hwidth hx _
  have hpos : 1 ≤ c.xlen := Nat.le_of_succ_le hwidth
  refine ⟨fun hy => if_pos hy, fun hy hoverflow => ⟨x.tmod y, ?_⟩, ?overflow⟩
  · rw [divResult_of_ne_zero hround hy, wrap_eq_self hpos (inRange_tdiv hx hy hoverflow)]
    exact tmod_of_truncation x hy
  case overflow =>
    rw [divResult_of_ne_zero hround (by decide)]
    exact wrap_intMin_tdiv_neg_one hpos

end Sys2Proof.Machine
end

section
/-! PROOF. An idle machine (R42, R105): what its tables read as, and that the next instruction issues with its registers
as operands (R120, R126). -/

namespace Sys2Proof.Machine

variable {s : State}

/-- Two pools with the same groups are the same. -/
theorem StationPool.eq_of_group {p p' : StationPool} (h : ∀ g, p.group g = p'.group g) : p = p' :=
  calc p
    _ = ⟨p.group .add, p.group .mul, p.group .load, p.group .store⟩ := rfl
    _ = ⟨p'.group .add, p'.group .mul, p'.group .load, p'.group .store⟩ := by simp only [h]
    _ = p' := rfl

namespace Idle

variable (h : Idle s)
include h

theorem tail_lt : s.tail < s.rob.length := h.shape.robLength ▸ h.shape.tailRange

theorem entry_eq (p : Nat) : s.entry p = {} := by
  rw [State.entry, h.entries]
  grind

theorem station_eq (id : StationId) : s.station id = {} := by
  rw [State.station, h.stations]
  grind

theorem rename_eq (r : RegIdx) : s.rename r = {} := by
  simp [State.rename, h.rename]

/-- Clearing a slot, a station or a row again changes nothing. -/
theorem rob_set_empty (p : Nat) : s.rob.set p {} = s.rob := by
  rw [h.entries, List.set_replicate_self]

theorem rs_set_empty (id : StationId) : s.rs.set id {} = s.rs := by
  refine StationPool.eq_of_group fun g => ?_
  rw [group_set]
  split
  · rw [h.stations, List.set_replicate_self]
  · rfl

theorem regStatus_set_empty (r : RegIdx) : s.regStatus.set r {} = s.regStatus := by
  rw [h.rename]
  ext i hi
  simp

theorem readable (r : RegIdx) : s.readable r := by
  simp [State.readable, h.rename_eq]

theorem operand_eq (r : RegIdx) : s.operand r = ⟨s.reg r, none⟩ := by
  simp [State.operand, h.rename_eq]

/-- A pool of every group has a station (R29), and all of them are free. -/
theorem canIssue (hmore : s.pc < s.prog.length) (g : StationGroup) : ∃ id, s.canIssue g id := by
  obtain ⟨id, hpick⟩ := pickStation_of_free h.shape (id := ⟨g, 0⟩)
    (mem_stationOrder.mpr (legal_groupSize_pos h.shape.legal g)) (by rw [h.station_eq])
  exact ⟨id, hmore, h.available ▸ h.shape.robSize_pos, hpick⟩

theorem clearEvents : Idle s.clearEvents := { h with shape := { h.shape with } }

end Idle

end Sys2Proof.Machine
end

section
/-! PROOF. The phases of a cycle in which the program has ended (R120): what each does when it finds little to do. -/

namespace Sys2Proof.Machine

variable {s s1 s2 t : State} {id : StationId}

theorem legal_latency_pos {c : Config} (h : c.Legal) (k : Kind) : 1 ≤ latency c k := by
  obtain ⟨-, -, -, -, -, -, -, -, hadd, hsub, hmul, hdiv, hload, hstore, -⟩ := h
  cases k <;> assumption

/-- States whose first steps are the same have the same runs. -/
theorem run_succ_congr {M : Host.Core} {x y : M.State} {n : Nat} (h : M.step x = M.step y) :
    M.run (n + 1) x = M.run (n + 1) y := by
  rw [Host.Core.run, Host.Core.run, h]

/-- Past the end of the program, a step that dispatches nothing is its Commit, Write-Result and Execute-Advance. -/
theorem step_of_nothing_to_start (hend : s.prog.length ≤ s.pc) (hcommit : commit s.clearEvents = .next s1)
    (hwrite : writeResult s1 = .next s2) (hstart : executeStart s2 = .next s2) :
    step s = andThen (executeAdvance s2) fun t => .next t.tick := by
  rw [stepWithoutInstruction s hend]
  change andThen (commit s.clearEvents) _ = _
  rw [hcommit, andThen_of_next, hwrite, andThen_of_next, hstart, andThen_of_next]
  rfl

theorem dispatchStation_of_none_issued (h : ∀ p, (s.entry p).state ≠ .issued) (id : StationId) :
    dispatchStation s id = .next s := by
  rw [dispatchStation, if_neg]
  rw [dispatchable_iff]
  rintro ⟨-, -, -, b, -, hissued⟩
  exact h b hissued

/-- No entry waits for its dispatch (R140). -/
theorem executeStart_of_none_issued (h : ∀ p, (s.entry p).state ≠ .issued) : executeStart s = .next s :=
  forEach_stays fun id _ => dispatchStation_of_none_issued h id

/-- One station of the scan is dispatched, the others are not. -/
theorem executeStart_of_one (hid : id ∈ s.cfg.scanOrder) (hdispatch : dispatchStation s id = .next t)
    (hbefore : ∀ id' ≠ id, dispatchStation s id' = .next s) (hafter : ∀ id', dispatchStation t id' = .next t) :
    executeStart s = .next t := by
  obtain ⟨before, after, hsplit, hnot⟩ := List.eq_append_cons_of_mem hid
  have hforEach : ∀ l : List StationId, id ∉ l → forEach dispatchStation (l ++ id :: after) s = .next t := by
    intro l hl
    induction l with
    | nil => rw [List.nil_append, forEach, hdispatch, andThen_of_next, forEach_stays fun id' _ => hafter id']
    | cons x l ih =>
      obtain ⟨hne, hl⟩ := List.ne_and_not_mem_of_not_mem_cons hl
      rw [List.cons_append, forEach, hbefore x hne.symm, andThen_of_next, ih hl]
  rw [executeStart, hsplit]
  exact hforEach before hnot

/-- Execute-Advance with one record, which still counts after its decrement (R147). -/
theorem executeAdvance_of_one_counting {f : FuRecord} (hfu : s.fu = [f]) (hleft : 1 < f.remaining) :
    executeAdvance s = .next (s.setFu [f.decrement]) := by
  have hfinishing : s.finishing = [] := by simp [State.finishing, hfu, hleft]
  have hcounting : s.counting = [f.decrement] := by simp [State.counting, hfu, hleft]
  have hvisit : visitOrder s.cfg.recordOrder [] = [] := (visitOrder_perm _ _).eq_nil
  rw [executeAdvance_eq_forEach, hfinishing, hcounting, hvisit, forEach]

/-- Execute-Advance with one record, which finishes (R148). -/
theorem executeAdvance_of_one_finishing {f : FuRecord} {b : Nat} (hfu : s.fu = [f]) (hleft : f.remaining ≤ 1)
    (hb : (s.station f.rs).destRob = some b) : executeAdvance s =
      .next (((s.setFu []).setStamp f.instructionIndex fun y => { y with executionComplete := some s.cycle }).setCdbq
        (s.cdbq ++ [b])) := by
  have hfinishing : s.finishing = [f] := by simp [State.finishing, hfu, hleft]
  have hcounting : s.counting = [] := by simp [State.counting, hfu, hleft]
  have hvisit : visitOrder s.cfg.recordOrder [f] = [f] := List.perm_singleton.mp (visitOrder_perm _ _)
  have hb' : ((s.setFu []).station f.rs).destRob = some b := hb
  rw [executeAdvance_eq_forEach, hfinishing, hcounting, hvisit, forEach, completeRecord, hb']
  rfl

/-- A broadcast that no station waits for changes nothing (R160). -/
theorem broadcast_of_nobody_waits {b : Nat} {result : Int}
    (h : ∀ q ∈ s.rs.toList, q.qj ≠ some b ∧ q.qk ≠ some b) : s.broadcast b result = s := by
  have hrs : s.rs.map (Station.receive b result) = s.rs := by
    refine StationPool.eq_of_group fun g => ?_
    rw [group_map]
    refine (List.map_congr_left fun q hq => ?_).trans (List.map_id _)
    obtain ⟨hj, hk⟩ := h q (mem_toList.mpr ⟨g, hq⟩)
    exact receive_of_not_waiting result hj hk
  have hrob : ∀ l : List Station, (∀ q ∈ l, q.qj ≠ some b) → l.foldl (mirrorInto b result) s.rob = s.rob := by
    intro l hl
    induction l with
    | nil => rfl
    | cons q l ih =>
      obtain ⟨hq, hl⟩ := List.forall_mem_cons.mp hl
      rw [List.foldl_cons, mirrorInto, if_neg (by simp [Station.awaitsStoreData, hq])]
      exact ih hl
  rw [State.broadcast, hrs, hrob _ fun q hq => (h q hq).1]
  exact ite_self s

end Sys2Proof.Machine
end

section
/-! PROOF. One instruction alone in flight over an idle machine: what the tables read as, and each state operation on
them. -/

namespace Sys2Proof.Machine

/-- What the tables hold of the one instruction in flight, with the events of the last step. -/
structure Flight where
  station : Station
  entry : RobEntry
  fu : List FuRecord := []
  cdbq : List Nat := []
  stamps : Stamps
  cycle : Nat
  events : List Diagnostic := []

/-- `s` with the instruction at its `pc` issued into station `id`, the destination `dest` renamed, and `x` in the
tables. -/
def State.alone (s : State) (dest : Option RegIdx) (id : StationId) (x : Flight) : State :=
  { s.afterIssue dest id x.station x.entry with
    fu := x.fu
    cdbq := x.cdbq
    stamp := s.stamp.set s.pc x.stamps
    cycle := x.cycle
    diagOut := x.events }

variable {s : State} {dest : Option RegIdx} {id : StationId} {x : Flight}

theorem alone_setStation (q : Station) :
    (s.alone dest id x).setStation id q = s.alone dest id { x with station := q } :=
  setStation_setStation { s.alone dest id x with rs := s.rs } id x.station q

theorem alone_setEntry (e : RobEntry) :
    (s.alone dest id x).setEntry s.tail e = s.alone dest id { x with entry := e } :=
  setEntry_setEntry { s.alone dest id x with rob := s.rob } s.tail x.entry e

namespace Idle

variable (h : Idle s)
include h

theorem afterIssue_eq_alone (q : Station) (e : RobEntry) : s.afterIssue dest id q e =
    s.alone dest id
      { station := q, entry := e, stamps := { s.stampOf s.pc with issue := some s.cycle }, cycle := s.cycle,
        events := s.diagOut } :=
  congrArg₂ (fun fu cdbq => { s.afterIssue dest id q e with fu := fu, cdbq := cdbq }) h.tracker h.queue

theorem entry_alone (p : Nat) : (s.alone dest id x).entry p = if p = s.tail then x.entry else {} := by
  rw [← h.entry_eq p]
  exact entry_setEntry x.entry h.tail_lt p

theorem entry_alone_tail : (s.alone dest id x).entry s.tail = x.entry := by
  rw [h.entry_alone, if_pos rfl]

theorem entry_alone_head : (s.alone dest id x).entry (s.alone dest id x).head = x.entry := by
  change (s.alone dest id x).entry s.head = x.entry
  rw [← h.pointers, h.entry_alone_tail]

theorem station_alone (hid : id ∈ s.cfg.stationOrder) (id' : StationId) :
    (s.alone dest id x).station id' = if id' = id then x.station else {} := by
  rw [← h.station_eq id']
  exact station_setStation x.station (stationExists_of_mem h.shape hid) id'

theorem station_alone_self (hid : id ∈ s.cfg.stationOrder) : (s.alone dest id x).station id = x.station := by
  rw [h.station_alone hid, if_pos rfl]

theorem mem_toList_alone {q : Station} (hq : q ∈ (s.alone dest id x).rs.toList) : q = x.station ∨ q = {} := by
  obtain ⟨g, hq⟩ := mem_toList.mp hq
  change q ∈ (s.rs.set id x.station).group g at hq
  rw [group_set, h.stations] at hq
  split at hq
  · exact (List.mem_or_eq_of_mem_set hq).symm.imp_right List.eq_of_mem_replicate
  · exact .inr (List.eq_of_mem_replicate hq)

/-- A stamp goes into the row of the instruction in flight. -/
theorem alone_setStamp (hmore : s.pc < s.prog.length) (f : Stamps → Stamps) :
    (s.alone dest id x).setStamp s.pc f = s.alone dest id { x with stamps := f x.stamps } := by
  have hrow : (s.alone dest id x).stampOf s.pc = x.stamps :=
    stampOf_setStamp_same s (fun _ => x.stamps) (h.shape.stampLength ▸ hmore)
  have hset : (s.stamp.set s.pc x.stamps).set s.pc (f x.stamps) = s.stamp.set s.pc (f x.stamps) := List.set_set ..
  rw [State.setStamp, hrow]
  exact congrArg (fun stamp => { s.alone dest id x with stamp := stamp }) hset

theorem none_issued_alone (hstarted : x.entry.state ≠ .issued) (p : Nat) :
    ((s.alone dest id x).entry p).state ≠ .issued := by
  rw [h.entry_alone]
  split
  · exact hstarted
  · nofun

theorem commit_alone_waits (hwaits : x.entry.state ≠ .wroteResult) :
    commit (s.alone dest id x) = .next (s.alone dest id x) :=
  commitWaitsForHead _ (.inr (.inr (.inl (h.entry_alone_head ▸ hwaits))))

end Idle

end Sys2Proof.Machine
end

section
/-! PROOF. The life of the last instruction of a program, issued in an idle machine with its operands known (R111): from
Issue to Write-Result, for every kind. -/

namespace Sys2Proof.Machine

/-- The Issue, in an idle machine, of the last instruction of the program, with both operands known: station `id`
becomes `q`, the tail entry `e`. -/
structure LoneIssue (s : State) (k : Kind) (dest : Option RegIdx) (id : StationId) (q : Station) (e : RobEntry) :
    Prop where
  idle : Idle s
  last : s.pc + 1 = s.prog.length
  mem : id ∈ s.cfg.stationOrder
  issue : issuePhase s.clearEvents = .next (s.clearEvents.afterIssue dest id q e)
  issued : e.state = .issued
  busy : q.busy = true
  op : q.op = some k
  index : q.instructionIndex = some s.pc
  destRob : q.destRob = some s.tail
  knownJ : q.qj = none
  knownK : q.qk = none

variable (s : State) (k : Kind) (id : StationId) (q : Station) (e : RobEntry)

/-- Dispatched, with `left` cycles to count (R142). -/
def State.countingFlight (left : Int) (cycle : Nat) : Flight where
  station := q
  entry := e.dispatched k q
  fu := [⟨id, s.pc, left⟩]
  stamps := { s.stampOf s.pc with issue := some s.cycle }
  cycle := cycle

/-- In the CDB queue after its execution has ended in cycle `n` (R148). -/
def State.queuedFlight (n : Nat) : Flight where
  station := q
  entry := e.dispatched k q
  cdbq := [s.tail]
  stamps := { s.stampOf s.pc with issue := some s.cycle, executionComplete := some n }
  cycle := n + 1

/-- What its Write-Result computes (R158). -/
def State.loneResult : Computed := compute s.cfg s.mem k q s.pc

/-- With its result written in the cycle after (R157 to R164). -/
def State.writtenFlight (n : Nat) : Flight where
  station := {}
  entry := (e.dispatched k q).wrote (s.loneResult k q)
  stamps := { s.stampOf s.pc with
    issue := some s.cycle, executionComplete := some n, writeResult := some (n + 1) }
  cycle := n + 2
  events := (s.loneResult k q).events

variable {s k id q e} {dest : Option RegIdx} {n : Nat} {left : Int}

theorem dispatched_executing : (e.dispatched k q).state = .executing := by
  unfold RobEntry.dispatched
  split <;> rfl

theorem countingFlight_not_issued {cycle : Nat} : (s.countingFlight k id q e left cycle).entry.state ≠ .issued := by
  simp [State.countingFlight, dispatched_executing]

namespace LoneIssue

variable (h : LoneIssue s k dest id q e)
include h

theorem more : s.pc < s.prog.length := Nat.lt_of_succ_le h.last.le

theorem dispatch_issued {x : Flight} (hstation : x.station = q) (hentry : x.entry = e) :
    dispatchStation (s.alone dest id x) id = .next (s.alone dest id
      { x with entry := e.dispatched k q, fu := x.fu ++ [⟨id, s.pc, latency s.cfg k⟩] }) := by
  have hq : (s.alone dest id x).station id = q := (h.idle.station_alone_self h.mem).trans hstation
  have he : (s.alone dest id x).entry s.tail = e := h.idle.entry_alone_tail.trans hentry
  have hready : (s.alone dest id x).dispatchable q = true :=
    (dispatchable_iff _ q).mpr ⟨h.busy, h.knownJ, h.knownK, s.tail, h.destRob, he ▸ h.issued⟩
  rw [dispatchStation, hq, if_pos hready, h.destRob, h.op, h.index]
  dsimp only
  rw [he]
  exact congrArg _ (alone_setEntry (s := s) (x := { x with fu := x.fu ++ [⟨id, s.pc, latency s.cfg k⟩] }) _)

/-- What issues with both operands is dispatched in the same cycle, at full latency (R101 (c), R134 (c)). -/
theorem executeStart_afterIssue : executeStart (s.clearEvents.afterIssue dest id q e) =
    .next (s.alone dest id (s.countingFlight k id q e (latency s.cfg k) s.cycle)) := by
  have hscan : id ∈ s.cfg.scanOrder := (legal_scanOrder_perm h.idle.shape.legal).mem_iff.mpr h.mem
  rw [h.idle.clearEvents.afterIssue_eq_alone]
  refine executeStart_of_one (id := id) hscan (h.dispatch_issued rfl rfl) (fun id' hne => ?_) fun id' => ?_
  · refine dispatchStation_of_free ?_
    rw [h.idle.clearEvents.station_alone h.mem, if_neg hne]
  · exact dispatchStation_of_none_issued (h.idle.none_issued_alone countingFlight_not_issued) id'

/-- A step that neither commits nor starts anything. -/
theorem step_alone {x : Flight} {t : State} (hevents : x.events = []) (hstate : x.entry.state = .executing)
    (hwrite : writeResult (s.alone dest id x) = .next t) (hstarted : ∀ p, (t.entry p).state ≠ .issued) :
    step (s.alone dest id x) = andThen (executeAdvance t) fun u => .next u.tick := by
  have hclear : (s.alone dest id x).clearEvents = s.alone dest id x := by
    rw [State.alone, hevents]
    rfl
  have hcommit : commit (s.alone dest id x).clearEvents = .next (s.alone dest id x) := by
    rw [hclear]
    exact h.idle.commit_alone_waits (by simp [hstate])
  exact step_of_nothing_to_start h.last.ge hcommit hwrite (executeStart_of_none_issued hstarted)

theorem step_counting : step (s.alone dest id (s.countingFlight k id q e left n)) =
    andThen (executeAdvance (s.alone dest id (s.countingFlight k id q e left n))) fun t => .next t.tick :=
  h.step_alone rfl dispatched_executing (writeResult_of_nil rfl)
    (h.idle.none_issued_alone countingFlight_not_issued)

/-- The first step acts as a step in which the instruction is already dispatched. -/
theorem step_idle :
    step s = step (s.alone dest id (s.countingFlight k id q e (latency s.cfg k) s.cycle)) := by
  have hcommit : commit s.clearEvents = .next s.clearEvents :=
    commitWaitsForHead _ (.inl h.idle.available.ge)
  have hwrite : writeResult s.clearEvents = .next s.clearEvents := writeResult_of_nil h.idle.queue
  rw [h.step_counting, step, runCycle, hcommit, andThen_of_next, hwrite, andThen_of_next, h.issue, andThen_of_next,
    h.executeStart_afterIssue, andThen_of_next]

theorem step_counts_down (hleft : 1 < left) : step (s.alone dest id (s.countingFlight k id q e left n)) =
    .next (s.alone dest id (s.countingFlight k id q e (left - 1) (n + 1))) := by
  rw [h.step_counting, executeAdvance_of_one_counting rfl hleft]
  rfl

theorem step_finishes (hleft : left ≤ 1) : step (s.alone dest id (s.countingFlight k id q e left n)) =
    .next (s.alone dest id (s.queuedFlight k q e n)) := by
  have hdest : ((s.alone dest id (s.countingFlight k id q e left n)).station id).destRob = some s.tail :=
    (congrArg Station.destRob (h.idle.station_alone_self h.mem)).trans h.destRob
  have hstamp := h.idle.alone_setStamp (dest := dest) (id := id)
    (x := { s.countingFlight k id q e left n with fu := [] }) h.more fun y => { y with executionComplete := some n }
  rw [h.step_counting, executeAdvance_of_one_finishing rfl hleft hdest]
  exact congrArg (fun u => Host.Outcome.next (u.setCdbq [s.tail]).tick) hstamp

/-- The cycles of the execution (R111). -/
theorem run_to_queued (m l n : Nat) :
    Host.Core.run core (m + (l + 1)) (s.alone dest id (s.countingFlight k id q e (l + 1 : Nat) n)) =
      Host.Core.run core m (s.alone dest id (s.queuedFlight k q e (n + l))) := by
  induction l generalizing n with
  | zero => exact run_succ_of_step (M := core) (h.step_finishes (Int.le_refl 1))
  | succ l ih =>
    have hleft : ((l + 1 + 1 : Nat) : Int) - 1 = (l + 1 : Nat) := by omega
    have hstep := h.step_counts_down (left := (l + 1 + 1 : Nat)) (n := n) (by omega)
    have hcycle : n + (l + 1) = n + 1 + l := by omega
    rw [hleft] at hstep
    rw [hcycle, ← ih]
    exact run_succ_of_step (M := core) hstep

/-- The search for the station finds the one that is busy (R156). -/
theorem locate_queued : (s.alone dest id (s.queuedFlight k q e n)).locateStation s.tail = some id := by
  have hstation := h.idle.station_alone (dest := dest) (x := s.queuedFlight k q e n) h.mem
  have hself : (s.alone dest id (s.queuedFlight k q e n)).station id = q := h.idle.station_alone_self h.mem
  obtain ⟨id', hloc⟩ : ∃ id', (s.alone dest id (s.queuedFlight k q e n)).locateStation s.tail = some id' :=
    Option.ne_none_iff_exists'.mp fun hnone =>
      locateStation_eq_none_iff.mp hnone id h.mem ((congrArg Station.busy hself).trans h.busy)
        ((congrArg Station.destRob hself).trans h.destRob)
  obtain ⟨-, hbusy, -⟩ := locateStation_spec hloc
  rw [hloc]
  by_contra hne
  rw [hstation, if_neg (mt (congrArg some) hne)] at hbusy
  cases hbusy

theorem broadcast_alone {x : Flight} (hstation : x.station = q) (b : Nat) (result : Int) :
    (s.alone dest id x).broadcast b result = s.alone dest id x := by
  refine broadcast_of_nobody_waits fun q' hq' => ?_
  obtain rfl | rfl := h.idle.mem_toList_alone hq'
  · rw [hstation, h.knownJ, h.knownK]
    simp
  · simp

/-- Stamp, events and entry of a Write-Result (R157 to R159). -/
theorem wroteEntry_alone {x : Flight} : (s.alone dest id x).wroteEntry s.tail id k s.pc =
    s.alone dest id { x with
      entry := x.entry.wrote (compute s.cfg s.mem k x.station s.pc)
      stamps := { x.stamps with writeResult := some x.cycle }
      events := x.events ++ (compute s.cfg s.mem k x.station s.pc).events } := by
  rw [State.wroteEntry, h.idle.entry_alone_tail, h.idle.station_alone_self h.mem, State.stampWriteResult,
    h.idle.alone_setStamp h.more]
  exact alone_setEntry (s := s) (x := { x with
    stamps := { x.stamps with writeResult := some x.cycle }
    events := x.events ++ (compute s.cfg s.mem k x.station s.pc).events }) _

theorem writeResult_queued : writeResult (s.alone dest id (s.queuedFlight k q e n)) =
    .next (s.alone dest id { s.writtenFlight k q e n with cycle := n + 1 }) := by
  have hself : (s.alone dest id (s.queuedFlight k q e n)).station id = q := h.idle.station_alone_self h.mem
  have hpop : (s.alone dest id (s.queuedFlight k q e n)).setCdbq [] =
      s.alone dest id { s.queuedFlight k q e n with cdbq := [] } := rfl
  rw [writeResult_of_located rfl h.locate_queued ((congrArg Station.op hself).trans h.op)
    ((congrArg Station.instructionIndex hself).trans h.index), writeBack_eq, hpop, h.wroteEntry_alone,
    h.broadcast_alone rfl]
  exact congrArg _ (alone_setStation (s := s) {})

theorem step_queued : step (s.alone dest id (s.queuedFlight k q e n)) =
    .next (s.alone dest id (s.writtenFlight k q e n)) := by
  rw [h.step_alone rfl dispatched_executing h.writeResult_queued (h.idle.none_issued_alone nofun),
    executeAdvance_of_nil rfl]
  rfl

/-- From Issue to Write-Result, in latency + 1 steps (R111). -/
theorem run_to_written {l : Nat} (hlat : latency s.cfg k = (l + 1 : Nat)) (m : Nat) :
    Host.Core.run core (m + 1 + (l + 1)) s =
      Host.Core.run core m (s.alone dest id (s.writtenFlight k q e (s.cycle + l))) := by
  have hfirst := h.step_idle
  rw [hlat] at hfirst
  calc Host.Core.run core (m + 1 + (l + 1)) s
    _ = Host.Core.run core (m + 1 + (l + 1))
          (s.alone dest id (s.countingFlight k id q e (l + 1 : Nat) s.cycle)) := run_succ_congr (M := core) hfirst
    _ = Host.Core.run core (m + 1) (s.alone dest id (s.queuedFlight k q e (s.cycle + l))) := h.run_to_queued ..
    _ = Host.Core.run core m (s.alone dest id (s.writtenFlight k q e (s.cycle + l))) :=
      run_succ_of_step (M := core) h.step_queued

end LoneIssue

end Sys2Proof.Machine
end

section
/-! PROOF. The end of a life (R177 to R182): Commit clears what the instruction had taken, and a non-STORE writes its
register. -/

namespace Sys2Proof.Machine

/-- `s` after the Commit of the instruction whose tables were `x`, registers and memory aside: nothing is in flight
again. -/
def State.landed (s : State) (x : Flight) : State :=
  { s with
    head := nextIndex s.cfg s.head
    tail := nextIndex s.cfg s.tail
    pc := s.pc + 1
    cycle := x.cycle
    stamp := s.stamp.set s.pc { x.stamps with commit := some x.cycle } }

variable {s : State} {k : Kind} {id : StationId} {q : Station} {dest : Option RegIdx} {rd : RegIdx}
  {l : Nat} {x : Flight} {regs : Vector Int 32} {mem : Memory} {events : List Diagnostic}

/-- Write-Result has released the station (R164): the ROB entry and the rename row alone are left to clear. -/
structure Flight.Lands (x : Flight) : Prop where
  station : x.station = {}
  fu : x.fu = []
  cdbq : x.cdbq = []

namespace Idle

variable (h : Idle s)
include h

theorem retired_alone (hx : x.Lands) (hmore : s.pc < s.prog.length) :
    (s.alone dest id x).retired s.pc s.regStatus = (s.landed x).withArch s.regs s.mem x.events := by
  have hrob : (s.alone dest id x).rob.set (s.alone dest id x).head {} = s.rob := by
    change (s.rob.set s.tail x.entry).set s.head {} = s.rob
    rw [h.pointers, List.set_set, h.rob_set_empty]
  have hfree : (s.alone dest id x).entriesAvailable + 1 = s.entriesAvailable :=
    Nat.sub_add_cancel (h.available ▸ h.shape.robSize_pos)
  have hrs : (s.alone dest id x).rs = s.rs := (congrArg (s.rs.set id) hx.station).trans (h.rs_set_empty id)
  have hfu : (s.alone dest id x).fu = s.fu := hx.fu.trans h.tracker.symm
  have hcdbq : (s.alone dest id x).cdbq = s.cdbq := hx.cdbq.trans h.queue.symm
  have hstamp : (s.alone dest id x).stamp.set s.pc
      { (s.alone dest id x).stampOf s.pc with commit := some (s.alone dest id x).cycle } =
      s.stamp.set s.pc { x.stamps with commit := some x.cycle } :=
    congrArg State.stamp (h.alone_setStamp hmore fun y => { y with commit := some x.cycle })
  rw [State.retired, hrob, hfree, hrs, hfu, hcdbq, hstamp]
  rfl

/-- Commit of a non-STORE that has written its result. -/
theorem commit_alone_register (hx : x.Lands) (hmore : s.pc < s.prog.length) (hbusy : x.entry.busy = true)
    (hwritten : x.entry.state = .wroteResult) (hindex : x.entry.instructionIndex = some s.pc)
    (hkind : x.entry.kind = some k) (hne : k ≠ .store) (hdest : x.entry.destinationRegister = some rd) :
    commit (s.alone (some rd) id x) =
      .next ((s.landed x).withArch (s.regs.set rd x.entry.value) s.mem x.events) := by
  have hentry : (s.alone (some rd) id x).entry (s.alone (some rd) id x).head = x.entry := h.entry_alone_head
  have hroom : (s.alone (some rd) id x).entriesAvailable < s.cfg.robSize :=
    h.available ▸ Nat.sub_lt (h.available ▸ h.shape.robSize_pos) Nat.one_pos
  have hrename : (s.alone (some rd) id x).rename rd = { busy := true, robIndex := some s.head } :=
    h.pointers ▸ rename_setRename_same s rd _
  have hstatus : (s.alone (some rd) id x).regStatus.set rd {} = s.regStatus :=
    (Vector.set_set ..).trans (h.regStatus_set_empty rd)
  rw [commitWritesRegister _ s.pc k rd hroom (hentry ▸ hbusy) (hentry ▸ hwritten) (hentry ▸ hindex)
    (hentry ▸ hkind) hne (hentry ▸ hdest), hentry, hrename, if_pos ⟨rfl, rfl⟩, hstatus]
  exact congrArg (fun t => Host.Outcome.next (t.withArch (s.regs.set rd x.entry.value) s.mem x.events))
    (h.retired_alone (dest := some rd) (id := id) hx hmore)

/-- After the Commit no phase of the cycle finds anything to do. -/
theorem step_lands (hlast : s.pc + 1 = s.prog.length)
    (hcommit : commit (s.alone dest id x).clearEvents = .next ((s.landed x).withArch regs mem events)) :
    step (s.alone dest id x) = .next ((s.landed x).withArch regs mem events).tick := by
  have hnone (p : Nat) : (((s.landed x).withArch regs mem events).entry p).state ≠ .issued := by
    change (s.entry p).state ≠ .issued
    rw [h.entry_eq]
    nofun
  have hadvance : executeAdvance ((s.landed x).withArch regs mem events) =
      .next ((s.landed x).withArch regs mem events) := executeAdvance_of_nil h.tracker
  rw [step_of_nothing_to_start hlast.ge hcommit (writeResult_of_nil h.queue) (executeStart_of_none_issued hnone),
    hadvance, andThen_of_next]

end Idle

theorem dispatched_issuedEntry (i : Nat) (hne : k ≠ .store) :
    (issuedEntry k dest i).dispatched k q = { issuedEntry k dest i with state := .executing } :=
  if_neg fun hstore => hne hstore.1

theorem LoneIssue.step_written (h : LoneIssue s k (some rd) id q (issuedEntry k (some rd) s.pc)) (hne : k ≠ .store) :
    step (s.alone (some rd) id (s.writtenFlight k q (issuedEntry k (some rd) s.pc) (s.cycle + l))) =
      .next (s.afterLife (l + 1) (s.regs.set rd (s.loneResult k q).result) s.mem []) := by
  refine h.idle.step_lands h.last ?_
  have hentry : (s.writtenFlight k q (issuedEntry k (some rd) s.pc) (s.cycle + l)).entry =
      { issuedEntry k (some rd) s.pc with state := .executing }.wrote (s.loneResult k q) :=
    congrArg (·.wrote (s.loneResult k q)) (dispatched_issuedEntry s.pc hne)
  exact h.idle.commit_alone_register (k := k)
    (x := { s.writtenFlight k q (issuedEntry k (some rd) s.pc) (s.cycle + l) with events := [] })
    ⟨rfl, rfl, rfl⟩ h.more (congrArg RobEntry.busy hentry) (congrArg RobEntry.state hentry)
    (congrArg RobEntry.instructionIndex hentry) (congrArg RobEntry.kind hentry) hne
    (congrArg RobEntry.destinationRegister hentry)

/-- An instruction with a destination, alone in an idle machine: its whole effect, in latency + 2 steps (R111). -/
theorem LoneIssue.life (h : LoneIssue s k (some rd) id q (issuedEntry k (some rd) s.pc)) (hne : k ≠ .store) :
    Host.Core.run core ((latency s.cfg k).toNat + 2) s =
      .next (s.afterLife (latency s.cfg k).toNat (s.regs.set rd (s.loneResult k q).result) s.mem []) := by
  have hpos := legal_latency_pos h.idle.shape.legal k
  obtain ⟨l, hl⟩ : ∃ l : Nat, latency s.cfg k = (l + 1 : Nat) := ⟨(latency s.cfg k).toNat - 1, by omega⟩
  rw [hl, Int.toNat_natCast, Nat.add_comm, h.run_to_written hl 1]
  exact run_succ_of_step (M := core) (h.step_written hne)

end Sys2Proof.Machine
end

section
/-! PROOF. The lives of ADD, SUB, MUL and DIV (R190 to R194). -/

namespace Sys2Proof.Machine

variable {s : State} {k : Kind} {rd rs1 rs2 : RegIdx} {w : InstrWord} {i : Instr}

/-- The station of an arithmetic instruction after its Issue in an idle machine (R125, R127). -/
def State.idleStation (s : State) (k : Kind) (rs1 rs2 : RegIdx) : Station :=
  (({} : Station).occupy k s.pc s.tail).wireArith ⟨s.reg rs1, none⟩ ⟨s.reg rs2, none⟩

theorem Idle.arith_issues (h : Idle s) (hw : s.prog[s.pc]? = some w) (hlast : s.pc + 1 = s.prog.length)
    (hd : decode s.cfg.offw w = .instr i) (hi : ∀ u, exec i u = issueArith k rd rs1 rs2 u) :
    ∃ id, LoneIssue s k (some rd) id (s.idleStation k rs1 rs2) (issuedEntry k (some rd) s.pc) := by
  obtain ⟨id, hcan⟩ := h.clearEvents.canIssue (Nat.lt_of_succ_le hlast.le) (groupOf k)
  refine ⟨id, h, hlast, mem_of_stationExists h.shape hcan.station_exists, ?_, rfl, rfl, rfl, rfl, rfl, rfl, rfl⟩
  rw [issuePhase_of_instr (s := s.clearEvents) hw hd, hi, issueArith_of_canIssue hcan (h.clearEvents.readable rs1)
    (h.clearEvents.readable rs2), h.clearEvents.operand_eq, h.clearEvents.operand_eq, h.clearEvents.station_eq]
  rfl

theorem Idle.arith_life (h : Idle s) (hw : s.prog[s.pc]? = some w) (hlast : s.pc + 1 = s.prog.length)
    (hd : decode s.cfg.offw w = .instr i) (hi : ∀ u, exec i u = issueArith k rd rs1 rs2 u) (hne : k ≠ .store) :
    Host.Core.run core ((latency s.cfg k).toNat + 2) s = .next (s.afterLife (latency s.cfg k).toNat
      (s.regs.set rd (s.loneResult k (s.idleStation k rs1 rs2)).result) s.mem []) := by
  obtain ⟨id, hissue⟩ := h.arith_issues hw hlast hd hi
  exact hissue.life hne

/-- Settles O46: the four kinds have one Issue and one life, and Write-Result computes the kind's function of the two
registers. -/
theorem arithmeticLife : Obligations.ArithmeticLife := by
  intro s w rd rs1 rs2 h hw hlast life
  refine ⟨fun hd => ?add, fun hd => ?sub, fun hd => ?mul, fun hd => ?div⟩
  case add => exact h.arith_life (k := .add) hw hlast hd (fun _ => rfl) nofun
  case sub => exact h.arith_life (k := .sub) hw hlast hd (fun _ => rfl) nofun
  case mul => exact h.arith_life (k := .mul) hw hlast hd (fun _ => rfl) nofun
  case div => exact h.arith_life (k := .div) hw hlast hd (fun _ => rfl) nofun

end Sys2Proof.Machine
end

section
/-! PROOF. Issue in an idle machine (R120 to R132): of a LOAD and of a STORE, whose operands are then registers,
whatever stands in the program after them. -/

namespace Sys2Proof.Machine

/-- The Issue of the instruction at `pc` in an idle machine, its operands known: station `id` becomes `q`, the tail
entry `e`. -/
structure IdleIssue (s : State) (k : Kind) (dest : Option RegIdx) (id : StationId) (q : Station) (e : RobEntry) :
    Prop where
  idle : Idle s
  more : s.pc < s.prog.length
  mem : id ∈ s.cfg.stationOrder
  group : id.group = groupOf k
  issue : issuePhase s.clearEvents = .next (s.clearEvents.afterIssue dest id q e)
  issued : e.state = .issued
  busy : q.busy = true
  op : q.op = some k
  index : q.instructionIndex = some s.pc
  destRob : q.destRob = some s.tail
  knownJ : q.qj = none
  knownK : q.qk = none

variable {s : State} {k : Kind} {dest : Option RegIdx} {id : StationId} {q : Station} {e : RobEntry}
  {rd rsrc base : RegIdx} {offset : Int} {w : InstrWord}

/-- The last instruction of the program has the life of `LoneIssue`. -/
theorem IdleIssue.lone (h : IdleIssue s k dest id q e) (hlast : s.pc + 1 = s.prog.length) :
    LoneIssue s k dest id q e :=
  { h with last := hlast }

theorem State.canIssue.more {g : StationGroup} (h : s.canIssue g id) : s.pc < s.prog.length := by
  obtain ⟨hmore, -⟩ := h
  exact hmore

theorem State.canIssue.group {g : StationGroup} (h : s.canIssue g id) : id.group = g := by
  obtain ⟨-, -, hpick⟩ := h
  obtain ⟨-, hgroup, -⟩ := pickStation_spec hpick
  exact hgroup

/-- The station of a LOAD that captures `base` (R125, R128). -/
def State.loadStation (s : State) (offset : Int) (base : Operand) : Station :=
  (({} : Station).occupy .load s.pc s.tail).wireLoad (offsetValue s.cfg offset) base

/-- The station of a STORE that captures `data` and `base` (R125, R129). -/
def State.storeStation (s : State) (data : Operand) (offset : Int) (base : Operand) : Station :=
  (({} : Station).occupy .store s.pc s.tail).wireStore data (offsetValue s.cfg offset) base

/-- Issue of a STORE into a cleared station, its data known or not (R129). -/
theorem issuePhase_store (hw : s.fetch = some w) (hd : decode s.cfg.offw w = .instr (.store rsrc offset base))
    (hcan : s.canIssue .store id) (hfree : s.station id = {}) (htail : s.tail < s.rob.length)
    (hdata : s.readable rsrc) (hbase : s.readable base) :
    issuePhase s = .next (s.afterIssue none id (s.storeStation (s.operand rsrc) offset (s.operand base))
      ((issuedEntry .store none s.pc).withKnownData (s.storeStation (s.operand rsrc) offset (s.operand base)))) := by
  rw [issuePhase_of_instr hw hd, storeIssues s rsrc offset base id hcan htail hdata hbase, hfree,
    issuedEntry_withKnownData]
  rfl

theorem Idle.load_issues (h : Idle s) (hw : s.prog[s.pc]? = some w)
    (hd : decode s.cfg.offw w = .instr (.load rd offset base)) (hcan : s.canIssue .load id) :
    IdleIssue s .load (some rd) id (s.loadStation offset ⟨s.reg base, none⟩) (issuedEntry .load (some rd) s.pc) := by
  have hmem := mem_of_stationExists h.shape hcan.station_exists
  refine ⟨h, hcan.more, hmem, hcan.group, ?_, rfl, rfl, rfl, rfl, rfl, rfl, rfl⟩
  rw [issuePhase_of_instr (s := s.clearEvents) hw hd, loadIssues s.clearEvents rd offset base id hcan
    (h.clearEvents.readable base), h.clearEvents.operand_eq, h.clearEvents.station_eq]
  rfl

theorem Idle.store_issues (h : Idle s) (hw : s.prog[s.pc]? = some w)
    (hd : decode s.cfg.offw w = .instr (.store rsrc offset base)) (hcan : s.canIssue .store id) :
    IdleIssue s .store none id (s.storeStation ⟨s.reg rsrc, none⟩ offset ⟨s.reg base, none⟩)
      ((issuedEntry .store none s.pc).withKnownData (s.storeStation ⟨s.reg rsrc, none⟩ offset ⟨s.reg base, none⟩)) := by
  have hmem := mem_of_stationExists h.shape hcan.station_exists
  refine ⟨h, hcan.more, hmem, hcan.group, ?_, rfl, rfl, rfl, rfl, rfl, rfl, rfl⟩
  rw [issuePhase_store (s := s.clearEvents) hw hd hcan (h.clearEvents.station_eq id) h.clearEvents.tail_lt
    (h.clearEvents.readable rsrc) (h.clearEvents.readable base), h.clearEvents.operand_eq, h.clearEvents.operand_eq]
  rfl

end Sys2Proof.Machine
end

section
/-! PROOF. The lives of LOAD and STORE (R210 to R212): what Write-Result computes for them, and a STORE's Commit (R180,
R181). -/

namespace Sys2Proof.Machine

variable {s : State} {id : StationId} {q : Station} {rd rsrc base : RegIdx} {offset v : Int} {n : Nat} {x : Flight}

theorem legal_latency_eq_succ {c : Config} (h : c.Legal) (k : Kind) : ∃ l : Nat, latency c k = (l + 1 : Nat) := by
  have hpos := legal_latency_pos h k
  exact ⟨(latency c k).toNat - 1, by omega⟩

/-- The offset may be wrapped before it is added to the base (R9, R212). -/
theorem wrap_offsetValue_add (c : Config) (offset v : Int) :
    wrap c.xlen (offsetValue c offset + v) = wrap c.xlen (offset + v) :=
  Int.bmod_add_bmod

theorem loneResult_load (s : State) (offset v : Int) : (s.loneResult .load (s.loadStation offset ⟨v, none⟩)).result =
    memRead s.cfg s.mem (wrap s.cfg.xlen (offset + v)) :=
  congrArg (memRead s.cfg s.mem) (wrap_offsetValue_add s.cfg offset v)

theorem effectiveAddress_storeStation (data : Operand) (v : Int) :
    effectiveAddress s.cfg (s.storeStation data offset ⟨v, none⟩) = wrap s.cfg.xlen (offset + v) :=
  wrap_offsetValue_add s.cfg offset v

theorem memRead_eq (c : Config) (m : Memory) (address : Int) :
    memRead c m address = if 0 ≤ address ∧ address < c.memSize then Memory.read c m address.toNat else 0 := by
  simp only [memRead, addressValid_iff]

/-- Settles O47: a LOAD has the life of an instruction with a destination, and its result is the addressed word. -/
theorem loadLife : Obligations.LoadLife := by
  intro s w rd offset base h hw hlast hd ea
  obtain ⟨id, hcan⟩ := h.canIssue (Nat.lt_of_succ_le hlast.le) .load
  have hlife := ((h.load_issues hw hd hcan).lone hlast).life nofun
  rw [loneResult_load, memRead_eq] at hlife
  exact hlife

/-! The Commit of a STORE -/

/-- Commit of a STORE that has written its result (R180, R181). -/
theorem Idle.commit_alone_store (h : Idle s) (hx : x.Lands) (hmore : s.pc < s.prog.length) (hbusy : x.entry.busy = true)
    (hwritten : x.entry.state = .wroteResult) (hindex : x.entry.instructionIndex = some s.pc)
    (hkind : x.entry.kind = some .store) (hready : x.entry.valueReady = true) :
    commit (s.alone none id x) = .next ((s.landed x).withArch s.regs
      (memWrite s.cfg s.mem x.entry.address x.entry.value) (x.events ++ storeEvents s.cfg s.pc x.entry.address)) := by
  have hentry : (s.alone none id x).entry (s.alone none id x).head = x.entry := h.entry_alone_head
  have hroom : (s.alone none id x).entriesAvailable < s.cfg.robSize :=
    h.available ▸ Nat.sub_lt (h.available ▸ h.shape.robSize_pos) Nat.one_pos
  have hcommits : (s.alone none id x).commitReady = true :=
    (commitReady_iff _).mpr ⟨hroom, hentry ▸ hbusy, hentry ▸ hwritten, fun _ => hentry ▸ hready⟩
  rw [commit_of_store hcommits (hentry ▸ hindex) (hentry ▸ hkind), hentry]
  exact congrArg (fun t : State => Host.Outcome.next (t.withArch s.regs
    (memWrite s.cfg s.mem x.entry.address x.entry.value) (x.events ++ storeEvents s.cfg s.pc x.entry.address)))
    (h.retired_alone (dest := none) (id := id) hx hmore)

theorem withKnownData_of_known (e : RobEntry) (hq : q.qj = none) :
    e.withKnownData q = { e with value := q.vj, valueReady := true } :=
  if_pos hq

/-- A STORE whose data is known has it in the ROB, so R144 has nothing to copy. -/
theorem dispatched_withKnownData (e : RobEntry) (k : Kind) (hq : q.qj = none) :
    (e.withKnownData q).dispatched k q = { e with value := q.vj, valueReady := true, state := .executing } := by
  rw [withKnownData_of_known e hq]
  exact if_neg (by simp)

/-- The Commit of a STORE whose execution ended in cycle `n`, and the end of its life. -/
theorem LoneIssue.store_lands (h : LoneIssue s .store none id q ((issuedEntry .store none s.pc).withKnownData q)) :
    let x := s.writtenFlight .store q ((issuedEntry .store none s.pc).withKnownData q) n
    let address := effectiveAddress s.cfg q
    step (s.alone none id x) = .next ((s.landed x).withArch s.regs
      (memWrite s.cfg s.mem address q.vj) (storeEvents s.cfg s.pc address)).tick := by
  intro x address
  refine h.idle.step_lands h.last ?_
  have hentry : x.entry = ({ issuedEntry .store none s.pc with
      value := q.vj, valueReady := true, state := .executing } : RobEntry).wrote (s.loneResult .store q) :=
    congrArg (·.wrote (s.loneResult .store q)) (dispatched_withKnownData _ .store h.knownJ)
  exact h.idle.commit_alone_store (x := { x with events := [] }) ⟨rfl, rfl, rfl⟩ h.more (congrArg RobEntry.busy hentry)
    (congrArg RobEntry.state hentry) (congrArg RobEntry.instructionIndex hentry) (congrArg RobEntry.kind hentry)
    (congrArg RobEntry.valueReady hentry)

/-- Settles O48: a STORE is issued and executed as every instruction is, and its Commit writes the word. -/
theorem storeLife : Obligations.StoreLife := by
  intro s w rsrc offset base h hwf hw hlast hd ea inside
  obtain ⟨id, hcan⟩ := h.canIssue (Nat.lt_of_succ_le hlast.le) .store
  have hlone := (h.store_issues hw hd hcan).lone hlast
  obtain ⟨l, hlat⟩ := legal_latency_eq_succ h.shape.legal .store
  have hl : s.cfg.latStore = (l + 1 : Nat) := hlat
  have hvalid : addressValid s.cfg ea = true ↔ inside := addressValid_iff
  refine ⟨memWrite s.cfg s.mem ea (s.reg rsrc), ?run, fun hin => ?same, fun a hne => ?other⟩
  case run =>
    rw [hl, Int.toNat_natCast, Nat.add_comm, hlone.run_to_written hlat 1,
      run_succ_of_step (M := core) hlone.store_lands, effectiveAddress_storeStation, ← storeEvents_eq]
    rfl
  case same =>
    rw [← memRead_of_valid (hvalid.mpr hin)]
    exact memRead_memWrite_same hwf (hvalid.mpr hin) _
  case other =>
    by_cases hin : inside
    · exact read_memWrite_other _ fun heq => hne ⟨hin, heq⟩
    · rw [memWrite, if_neg (mt hvalid.mp hin)]

end Sys2Proof.Machine
end

section
/-! PROOF. A cycle by its phases (R100), and cycles in which nothing but the tracker moves: the head waits, Issue stalls
and no station is ready (R121, R140, R147). -/

namespace Sys2Proof.Machine

variable {u u1 u2 u3 v : State} {id : StationId} {b i l : Nat} {k : Kind} {q : Station} {e : RobEntry}

/-- The phases after Issue, and the cycle counter (R100). -/
def State.finishCycle (u : State) : Host.Outcome State Fault Refusal :=
  andThen (executeStart u) fun v => andThen (executeAdvance v) fun w => .next w.tick

theorem step_of_phases (hcommit : commit u.clearEvents = .next u1) (hwrite : writeResult u1 = .next u2)
    (hissue : issuePhase u2 = .next u3) : step u = u3.finishCycle := by
  rw [step, runCycle, hcommit, andThen_of_next, hwrite, andThen_of_next, hissue, andThen_of_next]
  rfl

/-- What Commit leaves decides the step. -/
theorem step_congr_of_commit (h : commit u.clearEvents = commit v.clearEvents) : step u = step v := by
  rw [step, runCycle, h]
  rfl

theorem finishCycle_of_started (h : executeStart u = .next v) :
    u.finishCycle = andThen (executeAdvance v) fun w => .next w.tick := by
  rw [State.finishCycle, h, andThen_of_next]

/-- The station of instruction `i`, of kind `k`, which writes into entry `b` (R30, R125). -/
structure Station.Serves (q : Station) (k : Kind) (i b : Nat) : Prop where
  busy : q.busy = true
  op : q.op = some k
  index : q.instructionIndex = some i
  destRob : q.destRob = some b

/-- Execute-Start with one station ready (R140 to R144). -/
theorem executeStart_of_only (hid : id ∈ u.cfg.scanOrder) (hstation : u.station id = q) (hq : q.Serves k i b)
    (hj : q.qj = none) (hk : q.qk = none) (hb : b < u.rob.length) (hentry : u.entry b = e) (hissued : e.state = .issued)
    (honly : ∀ id' ≠ id, u.dispatchable (u.station id') = false) :
    executeStart u = .next ((u.setFu (u.fu ++ [⟨id, i, latency u.cfg k⟩])).setEntry b (e.dispatched k q)) := by
  subst hstation hentry
  have hentry (fu : List FuRecord) (e : RobEntry) (p : Nat) :
      ((u.setFu fu).setEntry b e).entry p = if p = b then e else u.entry p := entry_setEntry (s := u.setFu fu) e hb p
  have hready : u.dispatchable (u.station id) = true :=
    (dispatchable_iff u _).mpr ⟨hq.busy, hj, hk, b, hq.destRob, hissued⟩
  refine executeStart_of_one hid ?dispatched (fun id' hne => if_neg (by simp [honly id' hne])) fun id' => if_neg ?after
  case dispatched => rw [dispatchStation, if_pos hready, hq.destRob, hq.op, hq.index]
  case after =>
    rw [dispatchable_iff]
    rintro ⟨hbusy, hj', hk', b', hb', hissued'⟩
    rw [hentry] at hissued'
    split at hissued'
    · simp [dispatched_executing] at hissued'
    · next hne =>
      have hready' : u.dispatchable (u.station id') = true :=
        (dispatchable_iff u _).mpr ⟨hbusy, hj', hk', b', hb', hissued'⟩
      obtain rfl : id' = id := by
        by_contra hother
        simp [honly id' hother] at hready'
      exact hne (Option.some.inj (hb'.symm.trans hq.destRob))

/-- Write-Result with one station that writes into the popped entry (R155 to R164). -/
theorem writeResult_of_only (hqueue : u.cdbq = [b]) (hid : id ∈ u.cfg.stationOrder) (hstation : u.station id = q)
    (hq : q.Serves k i b) (hb : b < u.rob.length) (hbusy : (u.entry b).busy = true)
    (honly : ∀ id' ≠ id, (u.station id').destRob ≠ some b) :
    writeResult u = .next ((u.wroteBack b id i [] (compute u.cfg u.mem k q i)).withArch u.regs u.mem
      (u.diagOut ++ (compute u.cfg u.mem k q i).events)) := by
  subst hstation
  have hlocate : u.locateStation b = some id := by
    obtain ⟨id', hloc⟩ : ∃ id', u.locateStation b = some id' := Option.ne_none_iff_exists'.mp fun hnone =>
      locateStation_eq_none_iff.mp hnone id hid hq.busy hq.destRob
    obtain ⟨-, -, hdest'⟩ := locateStation_spec hloc
    by_contra hne
    exact honly id' (fun heq => hne (heq ▸ hloc)) hdest'
  have hguard : (((u.setCdbq []).wroteEntry b id k i).entry b).busy = true :=
    wroteEntry_busy (s := u.setCdbq []) hb hbusy
  rw [writeResult_of_located hqueue hlocate hq.op hq.index, writeBack_eq, State.broadcast, if_pos hguard]
  rfl

/-! Quiet cycles -/

/-- There is nothing to issue, or no room for what there is (R120). -/
def State.IssueStalls (u : State) : Prop :=
  u.prog.length ≤ u.pc ∨ u.entriesAvailable = 0 ∧ ∃ w i, u.fetch = some w ∧ decode u.cfg.offw w = .instr i

theorem issuePhase_of_stalls (h : u.IssueStalls) : issuePhase u = .next u := by
  obtain hend | ⟨hfull, w, i, hw, hd⟩ := h
  · exact issuePhase_of_none (List.getElem?_eq_none hend)
  · rw [issuePhase_of_instr hw hd]
    exact structuralStallChangesNothing i u (.inr (.inl hfull))

/-- Nothing commits, issues or is dispatched. -/
structure State.Quiet (u : State) : Prop where
  head : (u.entry u.head).state ≠ .wroteResult
  issue : u.IssueStalls
  start : ∀ id, u.dispatchable (u.station id) = false

theorem executeStart_of_none_ready (h : ∀ id, u.dispatchable (u.station id) = false) : executeStart u = .next u :=
  forEach_stays fun id _ => if_neg (by simp [h id])

/-- `u` when its one record, of instruction `i` and entry `b`, has finished in cycle `n` (R148). -/
def State.completedAt (u : State) (i b n : Nat) : State :=
  { u.setStamp i fun y => { y with executionComplete := some n } with fu := [], cdbq := [b], cycle := n + 1 }

namespace State.Quiet

variable (h : u.Quiet)
include h

theorem commit_waits : commit u.clearEvents = .next u.clearEvents :=
  commitWaitsForHead _ (.inr (.inr (.inl h.head)))

theorem step_eq (hevents : u.diagOut = []) (hqueue : u.cdbq = []) :
    step u = andThen (executeAdvance u) fun v => .next v.tick := by
  have hclear : u.clearEvents = u := by rw [State.clearEvents, ← hevents]
  have hcommit : commit u.clearEvents = .next u := h.commit_waits.trans (congrArg _ hclear)
  rw [step_of_phases hcommit (writeResult_of_nil hqueue) (issuePhase_of_stalls h.issue),
    finishCycle_of_started (executeStart_of_none_ready h.start)]

/-- The cycles until the one record finishes (R147, R148). -/
theorem run_completes (hevents : u.diagOut = []) (hqueue : u.cdbq = []) (hfu : u.fu = [⟨id, i, (l + 1 : Nat)⟩])
    (hdest : (u.station id).destRob = some b) (m : Nat) :
    Host.Core.run core (m + (l + 1)) u = Host.Core.run core m (u.completedAt i b (u.cycle + l)) := by
  induction l generalizing u with
  | zero =>
    have hstep := h.step_eq hevents hqueue
    rw [executeAdvance_of_one_finishing hfu (Int.le_refl 1) hdest, hqueue, andThen_of_next] at hstep
    exact run_succ_of_step (M := core) hstep
  | succ l ih =>
    have hstep := h.step_eq hevents hqueue
    have hleft : ((l + 1 + 1 : Nat) : Int) - 1 = (l + 1 : Nat) := by omega
    have hcycle : u.cycle + (l + 1) = u.cycle + 1 + l := by omega
    rw [executeAdvance_of_one_counting hfu (by simp only; omega), andThen_of_next, FuRecord.decrement, hleft] at hstep
    rw [hcycle]
    refine (run_succ_of_step (M := core) hstep).trans ?_
    exact ih (u := (u.setFu [⟨id, i, (l + 1 : Nat)⟩]).tick) ⟨h.head, h.issue, h.start⟩ hevents hqueue rfl hdest

end State.Quiet

end Sys2Proof.Machine
end

section
/-! PROOF. Operations on the tables that two instructions in flight share: stations of two groups, the data that a
broadcast mirrors into the ROB (R161), the choice of a station (R124). -/

namespace Sys2Proof.Machine

variable {s t : State} {id id' : StationId} {b d : Nat} {result : Int} {l : List Station} {rob rob' : List RobEntry}

theorem StationPool.map_set (p : StationPool) (f : Station → Station) (q : Station) :
    (p.set id q).map f = (p.map f).set id (f q) := by
  refine StationPool.eq_of_group fun g => ?_
  rw [group_map, group_set, group_set, group_map]
  split
  · exact List.map_set
  · rfl

theorem StationPool.set_comm (p : StationPool) (hne : id.group ≠ id'.group) (q q' : Station) :
    (p.set id q).set id' q' = (p.set id' q').set id q := by
  refine StationPool.eq_of_group fun g => ?_
  simp only [group_set]
  grind

theorem nextIndex_ne {c : Config} {p : Nat} (hp : p < c.robSize) (hroom : 1 < c.robSize) : nextIndex c p ≠ p := by
  rw [nextIndex]
  rcases Nat.lt_or_ge (p + 1) c.robSize with hlt | hge
  · rw [Nat.mod_eq_of_lt hlt]
    omega
  · rw [show p + 1 = c.robSize by omega, Nat.mod_self]
    omega

theorem rob_eq_of_getD (hlen : rob.length = rob'.length) (h : ∀ p, rob.getD p {} = rob'.getD p {}) : rob = rob' :=
  List.ext_getElem hlen fun p hp hp' => by simpa [hp, hp'] using h p

theorem foldl_mirrorInto_of_none (h : ∀ p, mirrorsInto b l p ≠ true) : l.foldl (mirrorInto b result) rob = rob :=
  rob_eq_of_getD (length_foldl_mirrorInto ..) fun p =>
    (getD_foldl_mirrorInto ..).trans (if_neg fun hm => h p hm.2)

theorem foldl_mirrorInto_of_one (h : ∀ p, mirrorsInto b l p = true ↔ p = d) : l.foldl (mirrorInto b result) rob =
    rob.set d { rob.getD d {} with value := result, valueReady := true } := by
  refine rob_eq_of_getD ((length_foldl_mirrorInto ..).trans List.length_set.symm) fun p => ?_
  rw [getD_foldl_mirrorInto, if_congr (and_congr_right' (h p)) rfl rfl]
  grind

/-- The choice looks at the stations of the group only. -/
theorem pickStation_congr {g : StationGroup} (hcfg : t.cfg = s.cfg) (hrs : t.rs.group g = s.rs.group g) :
    t.pickStation g = s.pickStation g := by
  have hfree : t.freeIn g = s.freeIn g := by
    funext id
    by_cases hgroup : id.group = g
    · simp only [State.freeIn, State.stationExists, State.station, hgroup, hrs]
    · simp [State.freeIn, hgroup]
  rw [State.pickStation, State.pickStation, hcfg, hfree]

/-- A captured operand after a broadcast (R160). -/
def Operand.received (b : Nat) (result : Int) (o : Operand) : Operand := if o.q = some b then ⟨result, none⟩ else o

theorem receive_storeStation (data base : Operand) (offset : Int) :
    (s.storeStation data offset base).receive b result =
      s.storeStation (data.received b result) offset (base.received b result) := by
  unfold Station.receive Operand.received State.storeStation Station.wireStore Station.occupy
  grind

end Sys2Proof.Machine
end

section
/-! PROOF. The first instruction of an idle machine alone in its tables, whatever comes after it in the program: its
first cycle, and its Write-Result (R101 (c), R157 to R164). -/

namespace Sys2Proof.Machine

variable {s : State} {k : Kind} {dest : Option RegIdx} {id : StationId} {q : Station} {e : RobEntry} {n : Nat}

/-- Issued in the cycle of `s` and not dispatched (R122 to R131). -/
def State.issuedFlight (s : State) (q : Station) (e : RobEntry) (n : Nat) (events : List Diagnostic) : Flight where
  station := q
  entry := e
  stamps := { s.stampOf s.pc with issue := some s.cycle }
  cycle := n
  events := events

theorem dispatched_busy : (e.dispatched k q).busy = e.busy := by
  unfold RobEntry.dispatched
  split <;> rfl

theorem Idle.map_receive (h : Idle s) (b : Nat) (result : Int) : s.rs.map (Station.receive b result) = s.rs := by
  refine StationPool.eq_of_group fun g => ?_
  rw [group_map, h.stations, List.map_replicate]
  rfl

/-- Commit at the start of a step waits for the instruction in flight (R176). -/
theorem Idle.commit_alone_clear (h : Idle s) {x : Flight} (hevents : x.events = [])
    (hwaits : x.entry.state ≠ .wroteResult) : commit (s.alone dest id x).clearEvents = .next (s.alone dest id x) := by
  have hclear : (s.alone dest id x).clearEvents = s.alone dest id x := by
    rw [State.alone, hevents]
    rfl
  rw [hclear]
  exact h.commit_alone_waits hwaits

namespace IdleIssue

variable (h : IdleIssue s k dest id q e)
include h

theorem serves : q.Serves k s.pc s.tail := { h with }

theorem mem_scanOrder : id ∈ s.cfg.scanOrder := (legal_scanOrder_perm h.idle.shape.legal).mem_iff.mpr h.mem

/-- What issues with both operands is dispatched in the same cycle, at full latency (R101 (c), R134 (c)). -/
theorem executeStart_afterIssue : executeStart (s.clearEvents.afterIssue dest id q e) =
    .next (s.alone dest id (s.countingFlight k id q e (latency s.cfg k) s.cycle)) := by
  let x := s.issuedFlight q e s.cycle []
  have hstart := executeStart_of_only (u := s.clearEvents.alone dest id x) h.mem_scanOrder
    (h.idle.clearEvents.station_alone_self h.mem) h.serves h.knownJ h.knownK
    (h.idle.tail_lt.trans_eq List.length_set.symm) h.idle.clearEvents.entry_alone_tail h.issued
    fun id' hne => by simp [h.idle.clearEvents.station_alone h.mem, hne, State.dispatchable]
  rw [h.idle.clearEvents.afterIssue_eq_alone]
  exact hstart.trans (congrArg _ (alone_setEntry (s := s) (x := { x with fu := [⟨id, s.pc, latency s.cfg k⟩] }) _))

/-- The first cycle, from Execute-Advance on. -/
theorem step_first : step s = andThen
    (executeAdvance (s.alone dest id (s.countingFlight k id q e (latency s.cfg k) s.cycle))) fun t => .next t.tick := by
  have hcommit : commit s.clearEvents = .next s.clearEvents := commitWaitsForHead _ (.inl h.idle.available.ge)
  rw [step_of_phases hcommit (writeResult_of_nil h.idle.queue) h.issue,
    finishCycle_of_started h.executeStart_afterIssue]

/-- With a latency of one cycle it finishes in its first (R101 (c)). -/
theorem step_first_finishes (hlat : latency s.cfg k = 1) :
    step s = .next (s.alone dest id (s.queuedFlight k q e s.cycle)) := by
  have hdest : ((s.alone dest id (s.countingFlight k id q e (latency s.cfg k) s.cycle)).station id).destRob =
      some s.tail := (congrArg Station.destRob (h.idle.station_alone_self h.mem)).trans h.destRob
  have hstamp := h.idle.alone_setStamp (dest := dest) (id := id)
    (x := { s.countingFlight k id q e 1 s.cycle with fu := [] }) h.more fun y =>
      { y with executionComplete := some s.cycle }
  rw [h.step_first, executeAdvance_of_one_finishing rfl hlat.le hdest]
  exact congrArg (fun u => Host.Outcome.next (u.setCdbq [s.tail]).tick) hstamp

theorem step_first_counts {l : Nat} (hlat : latency s.cfg k = (l + 1 + 1 : Nat)) :
    step s = .next (s.alone dest id (s.countingFlight k id q e (l + 1 : Nat) (s.cycle + 1))) := by
  have hleft : latency s.cfg k - 1 = (l + 1 : Nat) := by omega
  rw [h.step_first, executeAdvance_of_one_counting rfl (by simp only; omega), andThen_of_next, FuRecord.decrement,
    hleft]
  rfl

/-- Write-Result of the instruction alone. -/
theorem writeResult_queued (hbusy : e.busy = true) : writeResult (s.alone dest id (s.queuedFlight k q e n)) =
    .next (s.alone dest id { s.writtenFlight k q e n with cycle := n + 1 }) := by
  let u := s.alone dest id (s.queuedFlight k q e n)
  have hentry : u.entry s.tail = e.dispatched k q := h.idle.entry_alone_tail
  have hrs (b : Nat) (result : Int) : (u.rs.map (Station.receive b result)).set id {} = s.rs.set id {} := by
    change ((s.rs.set id q).map _).set id {} = _
    rw [StationPool.map_set, h.idle.map_receive, set_set]
  have hrob (c : Computed) : u.rs.toList.foldl (mirrorInto s.tail c.result) (u.rob.set s.tail
      ((e.dispatched k q).wrote c)) = s.rob.set s.tail ((e.dispatched k q).wrote c) := by
    refine (foldl_mirrorInto_of_none fun p => ?_).trans (List.set_set ..)
    rw [Ne, mirrorsInto_iff]
    rintro ⟨q', hq', -, hj, -⟩
    obtain rfl | rfl := h.idle.mem_toList_alone hq'
    · simp [h.knownJ] at hj
    · simp at hj
  have hstamp : u.stamp.set s.pc { u.stampOf s.pc with writeResult := some u.cycle } =
      s.stamp.set s.pc (s.writtenFlight k q e n).stamps :=
    congrArg State.stamp (h.idle.alone_setStamp h.more fun y => { y with writeResult := some (n + 1) })
  have hwrite := writeResult_of_only (u := u) rfl h.mem (h.idle.station_alone_self h.mem) h.serves
    (h.idle.tail_lt.trans_eq List.length_set.symm) (hentry ▸ dispatched_busy.trans hbusy)
    fun id' hne => by simp [u, h.idle.station_alone h.mem, hne]
  rw [State.wroteBack, hrs, hentry, hrob, hstamp] at hwrite
  exact hwrite

end IdleIssue

end Sys2Proof.Machine
end

section
/-! PROOF. A non-STORE and the STORE after it in flight over an idle machine: what the shared tables read as, the Issue
of the STORE (R126, R129), and the Commit that leaves it alone over the idle machine that follows (R178, R182). -/

namespace Sys2Proof.Machine

/-- `s` with the instruction at its `pc` in flight, as `x` says, and the STORE after it, as `y` says. The tracker, the
queue, the cycle and the events are those of `y`. -/
def State.pair (s : State) (rd : RegIdx) (id : StationId) (x : Flight) (id' : StationId) (y : Flight) : State :=
  (s.alone (some rd) id x).alone none id' y

/-- The ROB entry of a STORE whose station is `q`. -/
def State.storeEntry (s : State) (q : Station) : RobEntry := (issuedEntry .store none s.pc).withKnownData q

/-- A STORE over `s` that is issued in the cycle of `s`, in cycle `n` and not dispatched. -/
def State.storeFlight (s : State) (q : Station) (n : Nat) (events : List Diagnostic) : Flight :=
  s.issuedFlight q (s.storeEntry q) n events

/-- The idle machine that the STORE finds, were the instruction before it, with value `v` for `rd` and stamps `z`,
committed at the end of its first cycle. -/
def State.loaded (s : State) (rd : RegIdx) (v : Int) (z : Stamps) : State :=
  { s with
    diagOut := []
    regs := s.regs.set rd v
    head := nextIndex s.cfg s.head
    tail := nextIndex s.cfg s.tail
    pc := s.pc + 1
    cycle := s.cycle + 1
    stamp := s.stamp.set s.pc z }

variable {s : State} {rd r rsrc base : RegIdx} {id id' i : StationId} {x y : Flight} {v offset : Int} {z : Stamps}
  {w : InstrWord} {k : Kind}

theorem reg_loaded : (s.loaded rd v z).reg r = if r = rd then v else s.reg r := by
  split
  · next heq => rw [heq]; exact reg_setReg_same s rd v
  · next hne => exact reg_setReg_other s v hne

/-- The two instructions fit into the machine, at stations of different groups. -/
structure Fits (s : State) (id id' : StationId) : Prop where
  idle : Idle s
  last : s.pc + 2 = s.prog.length
  room : 1 < s.cfg.robSize
  mem : id ∈ s.cfg.stationOrder
  group : id.group ≠ .store
  storeMem : id' ∈ s.cfg.stationOrder
  storeGroup : id'.group = .store

namespace Fits

variable (h : Fits s id id')
include h

theorem more : s.pc < s.prog.length := by
  have := h.last
  omega

theorem group_ne : id.group ≠ id'.group := h.storeGroup ▸ h.group

theorem ne : id' ≠ id := fun heq => h.group_ne (congrArg StationId.group heq.symm)

theorem nextIndex_ne : nextIndex s.cfg s.tail ≠ s.tail := Machine.nextIndex_ne h.idle.shape.tailRange h.room

theorem nextIndex_lt : nextIndex s.cfg s.tail < s.rob.length :=
  h.idle.shape.robLength ▸ Nat.mod_lt _ h.idle.shape.robSize_pos

/-! The tables -/

theorem entry_pair (p : Nat) : (s.pair rd id x id' y).entry p =
    if p = nextIndex s.cfg s.tail then y.entry else if p = s.tail then x.entry else {} := by
  rw [← h.idle.entry_alone (dest := some rd) (id := id)]
  exact entry_setEntry (s := s.alone (some rd) id x) y.entry (h.nextIndex_lt.trans_eq List.length_set.symm) p

theorem entry_pair_tail : (s.pair rd id x id' y).entry s.tail = x.entry := by
  rw [h.entry_pair, if_neg h.nextIndex_ne.symm, if_pos rfl]

theorem entry_pair_head : (s.pair rd id x id' y).entry (s.pair rd id x id' y).head = x.entry := by
  change (s.pair rd id x id' y).entry s.head = x.entry
  rw [← h.idle.pointers, h.entry_pair_tail]

theorem entry_pair_store : (s.pair rd id x id' y).entry (nextIndex s.cfg s.tail) = y.entry := by
  rw [h.entry_pair, if_pos rfl]

theorem station_pair : (s.pair rd id x id' y).station i =
    if i = id' then y.station else if i = id then x.station else {} := by
  have hexists : (s.alone (some rd) id x).stationExists id' = true := by
    have hindex := stationExists_of_mem h.idle.shape h.storeMem
    simp only [State.stationExists, decide_eq_true_eq] at hindex ⊢
    exact hindex.trans_eq (length_group_set s.rs id x.station _).symm
  rw [← h.idle.station_alone (dest := some rd) h.mem]
  exact station_setStation (s := s.alone (some rd) id x) y.station hexists i

theorem station_pair_self : (s.pair rd id x id' y).station id = x.station := by
  rw [h.station_pair, if_neg h.ne.symm, if_pos rfl]

theorem station_pair_store : (s.pair rd id x id' y).station id' = y.station := by
  rw [h.station_pair, if_pos rfl]

theorem pair_setStamp (f : Stamps → Stamps) : (s.pair rd id x id' y).setStamp s.pc f =
    s.pair rd id { x with stamps := f x.stamps } id' y := by
  have hne : s.pc ≠ s.pc + 1 := by omega
  have hrow : (s.pair rd id x id' y).stampOf s.pc = x.stamps :=
    (stampOf_setStamp_other (s.alone (some rd) id x) (fun _ => y.stamps) hne).trans
      (stampOf_setStamp_same s (fun _ => x.stamps) (h.idle.shape.stampLength ▸ h.more))
  have hset : (((s.stamp.set s.pc x.stamps).set (s.pc + 1) y.stamps).set s.pc (f x.stamps)) =
      (s.stamp.set s.pc (f x.stamps)).set (s.pc + 1) y.stamps := by
    rw [List.set_comm _ _ hne.symm, List.set_set]
  rw [State.setStamp, hrow]
  exact congrArg (fun stamp => { s.pair rd id x id' y with stamp := stamp }) hset

/-! The Issue of the STORE -/

theorem rename_alone : (s.alone (some rd) id x).rename r =
    if r = rd then { busy := true, robIndex := some s.tail } else {} := by
  rw [← h.idle.rename_eq r]
  exact rename_setRename rd _ r

theorem operand_alone : (s.alone (some rd) id x).operand r =
    if r = rd then if x.entry.forwards = true then ⟨x.entry.value, none⟩ else ⟨0, some s.tail⟩
    else ⟨s.reg r, none⟩ := by
  have hreg : (s.alone (some rd) id x).reg r = s.reg r := rfl
  unfold State.operand
  rw [h.rename_alone, hreg]
  split
  · simp [h.idle.entry_alone_tail, forwards_iff]
  · simp

theorem readable_alone : (s.alone (some rd) id x).readable r := by
  unfold State.readable
  rw [h.rename_alone]
  split
  · exact fun _ => ⟨nofun, fun heq => h.nextIndex_ne (Option.some.inj heq).symm⟩
  · nofun

theorem canIssue_alone (hcan : s.canIssue .store id') : (s.alone (some rd) id x).canIssue .store id' := by
  obtain ⟨-, -, hpick⟩ := hcan
  have hgroup : (s.alone (some rd) id x).rs.group .store = s.rs.group .store := (group_set ..).trans (if_neg h.group)
  refine ⟨h.last.le, ?_, (pickStation_congr (s := s) (t := s.alone (some rd) id x) rfl hgroup).trans hpick⟩
  change 0 < s.entriesAvailable - 1
  have hroom := h.room
  have havailable := h.idle.available
  omega

/-- The STORE issues beside the instruction before it, whose result it takes or waits for. -/
theorem issuePhase_alone {data address : Operand} (hw : s.prog[s.pc + 1]? = some w)
    (hd : decode s.cfg.offw w = .instr (.store rsrc offset base)) (hcan : s.canIssue .store id')
    (hcycle : x.cycle = s.cycle + 1) (hdata : (s.alone (some rd) id x).operand rsrc = data)
    (haddress : (s.alone (some rd) id x).operand base = address) :
    issuePhase (s.alone (some rd) id x) = .next (s.pair rd id x id'
      { (s.loaded rd v z).storeFlight ((s.loaded rd v z).storeStation data offset address) x.cycle x.events with
        fu := x.fu, cdbq := x.cdbq }) := by
  let u := s.loaded rd v z
  have hstation : (s.alone (some rd) id x).station id' = {} := by rw [h.idle.station_alone h.mem, if_neg h.ne]
  have hstamp : (s.alone (some rd) id x).stampOf (s.pc + 1) = u.stampOf (s.pc + 1) :=
    (stampOf_setStamp_other s (fun _ => x.stamps) (Nat.succ_ne_self _)).trans
      (stampOf_setStamp_other s (fun _ => z) (Nat.succ_ne_self _)).symm
  have hstamps : ({ (s.alone (some rd) id x).stampOf (s.pc + 1) with issue := some x.cycle } : Stamps) =
      { u.stampOf u.pc with issue := some u.cycle } := by
    rw [hstamp, hcycle]
    rfl
  rw [issuePhase_store (s := s.alone (some rd) id x) hw hd (h.canIssue_alone hcan) hstation
    (h.nextIndex_lt.trans_eq List.length_set.symm) h.readable_alone h.readable_alone, hdata, haddress]
  exact congrArg (fun y => Host.Outcome.next (s.pair rd id x id'
    { u.storeFlight (u.storeStation data offset address) x.cycle x.events with
      fu := x.fu, cdbq := x.cdbq, stamps := y })) hstamps

/-! The Commit that leaves the STORE alone -/

/-- With the older instruction committed the STORE is alone over an idle machine. -/
theorem commit_pair (hstation : x.station = {}) (hbusy : x.entry.busy = true) (hwritten : x.entry.state = .wroteResult)
    (hindex : x.entry.instructionIndex = some s.pc) (hkind : x.entry.kind = some k) (hne : k ≠ .store)
    (hdest : x.entry.destinationRegister = some rd) :
    commit (s.pair rd id x id' y) =
      .next ((s.loaded rd x.entry.value { x.stamps with commit := some y.cycle }).alone none id' y) := by
  let u := s.pair rd id x id' y
  have hentry : u.entry u.head = x.entry := h.entry_pair_head
  have hsize := h.room
  have havailable := h.idle.available
  have hroom : u.entriesAvailable < s.cfg.robSize := by
    change s.entriesAvailable - 1 - 1 < _
    omega
  have hrename : u.rename rd = { busy := true, robIndex := some s.head } :=
    h.idle.pointers ▸ rename_setRename_same s rd _
  have hstatus : u.regStatus.set rd {} = s.regStatus := (Vector.set_set ..).trans (h.idle.regStatus_set_empty rd)
  have hrob : u.rob.set u.head {} = s.rob.set (nextIndex s.cfg s.tail) y.entry := by
    change ((s.rob.set s.tail x.entry).set (nextIndex s.cfg s.tail) y.entry).set s.head {} = _
    rw [← h.idle.pointers, List.set_comm _ _ h.nextIndex_ne, List.set_set, h.idle.rob_set_empty]
  have hrs : u.rs = s.rs.set id' y.station := by
    change (s.rs.set id x.station).set id' y.station = _
    rw [hstation, h.idle.rs_set_empty]
  have hfree : u.entriesAvailable + 1 = s.entriesAvailable - 1 := by
    change s.entriesAvailable - 1 - 1 + 1 = _
    omega
  have hstamp : u.stamp.set s.pc { u.stampOf s.pc with commit := some u.cycle } =
      (s.stamp.set s.pc { x.stamps with commit := some y.cycle }).set (s.pc + 1) y.stamps :=
    congrArg State.stamp (h.pair_setStamp fun t => { t with commit := some y.cycle })
  have hcommit := commitWritesRegister u s.pc k rd hroom (hentry ▸ hbusy) (hentry ▸ hwritten) (hentry ▸ hindex)
    (hentry ▸ hkind) hne (hentry ▸ hdest)
  rw [hentry, hrename, if_pos ⟨rfl, rfl⟩, hstatus, hrob, hfree, hstamp, hrs] at hcommit
  exact hcommit

end Fits

end Sys2Proof.Machine
end

section
/-! PROOF. A STORE that waits for the instruction before it, over an idle machine: what a cycle and the broadcast do to
the shared tables (R160, R161). -/

namespace Sys2Proof.Machine

variable {s : State} {rd : RegIdx} {id id' : StationId} {x y : Flight} {e : RobEntry} {result : Int}

theorem station_mem_toList (h : (s.station id).busy = true) : s.station id ∈ s.rs.toList := by
  unfold State.station at h ⊢
  by_cases hlt : id.index < (s.rs.group id.group).length
  · exact mem_toList.mpr ⟨id.group, by simp [hlt]⟩
  · simp [Nat.le_of_not_lt hlt] at h

theorem Idle.loaded (h : Idle s) (hmore : s.pc < s.prog.length) (rd : RegIdx) (v : Int) (z : Stamps) :
    Idle (s.loaded rd v z) where
  shape := { h.shape with
    stampLength := List.length_set.trans h.shape.stampLength
    pcRange := hmore
    headRange := Nat.mod_lt _ h.shape.robSize_pos
    tailRange := Nat.mod_lt _ h.shape.robSize_pos }
  available := h.available
  pointers := congrArg (nextIndex s.cfg) h.pointers
  entries := h.entries
  stations := h.stations
  tracker := h.tracker
  queue := h.queue
  rename := h.rename

namespace Fits

variable (h : Fits s id id')
include h

/-- While the STORE waits and the instruction before it executes, only the tracker moves. -/
theorem quiet_pair (hdest : x.station.destRob = some s.tail) (hexecuting : x.entry.state = .executing)
    (hwaits : y.station.qj ≠ none) : (s.pair rd id x id' y).Quiet where
  head := by simp [h.entry_pair_head, hexecuting]
  issue := .inl h.last.ge
  start i := by
    rw [Bool.eq_false_iff, Ne, dispatchable_iff, h.station_pair]
    rintro ⟨hbusy, hj, -, b, hb, hissued⟩
    split at hj
    · exact hwaits hj
    · next hother =>
      rw [if_neg hother] at hb hbusy
      split at hb
      · obtain rfl := Option.some.inj (hdest.symm.trans hb)
        simp [h.entry_pair_tail, hexecuting] at hissued
      · cases hb

theorem pair_setStamp_store (f : Stamps → Stamps) : (s.pair rd id x id' y).setStamp (s.pc + 1) f =
    s.pair rd id x id' { y with stamps := f y.stamps } := by
  have hrow : (s.pair rd id x id' y).stampOf (s.pc + 1) = y.stamps :=
    stampOf_setStamp_same (s.alone (some rd) id x) (fun _ => y.stamps)
      ((h.last.le.trans_eq h.idle.shape.stampLength.symm).trans_eq List.length_set.symm)
  have hset : ((s.stamp.set s.pc x.stamps).set (s.pc + 1) y.stamps).set (s.pc + 1) (f y.stamps) =
      (s.stamp.set s.pc x.stamps).set (s.pc + 1) (f y.stamps) := List.set_set ..
  rw [State.setStamp, hrow]
  exact congrArg (fun stamp => { s.pair rd id x id' y with stamp := stamp }) hset

/-- The broadcast reaches one STORE, which waits for its data. -/
theorem mirrors_pair {p : Nat} (hj : x.station.qj = none) (hwaits : y.station.qj = some s.tail)
    (hstore : y.station.Serves .store (s.pc + 1) (nextIndex s.cfg s.tail)) :
    mirrorsInto s.tail (s.pair rd id x id' y).rs.toList p = true ↔ p = nextIndex s.cfg s.tail := by
  rw [mirrorsInto_iff]
  constructor
  · rintro ⟨q, hq, -, hqj, -, hdest⟩
    obtain hq | rfl := mem_toList_set hq
    · obtain rfl | rfl := h.idle.mem_toList_alone hq
      · simp [hj] at hqj
      · simp at hqj
    · exact Option.some.inj (hdest.symm.trans hstore.destRob)
  · rintro rfl
    have hself : (s.pair rd id x id' y).station id' = y.station := h.station_pair_store
    exact ⟨y.station, hself ▸ station_mem_toList (hself ▸ hstore.busy), hstore.busy, hwaits, hstore.op, hstore.destRob⟩

/-- The stations after the broadcast and the release of the older one (R160, R162, R164). -/
theorem receive_pair : ((s.pair rd id x id' y).rs.map (Station.receive s.tail result)).set id {} =
    (s.rs.set id {}).set id' (y.station.receive s.tail result) := by
  change (((s.rs.set id x.station).set id' y.station).map _).set id {} = _
  rw [StationPool.map_set, StationPool.map_set, h.idle.map_receive, StationPool.set_comm _ h.group_ne.symm, set_set]

/-- The ROB after the older entry has become `e` and the STORE's data is mirrored (R159, R161). -/
theorem mirror_pair (hj : x.station.qj = none) (hwaits : y.station.qj = some s.tail)
    (hstore : y.station.Serves .store (s.pc + 1) (nextIndex s.cfg s.tail)) :
    (s.pair rd id x id' y).rs.toList.foldl (mirrorInto s.tail result) ((s.pair rd id x id' y).rob.set s.tail e) =
      (s.rob.set s.tail e).set (nextIndex s.cfg s.tail) { y.entry with value := result, valueReady := true } := by
  have hset : (s.pair rd id x id' y).rob.set s.tail e =
      (s.rob.set s.tail e).set (nextIndex s.cfg s.tail) y.entry := by
    change ((s.rob.set s.tail x.entry).set (nextIndex s.cfg s.tail) y.entry).set s.tail e = _
    rw [List.set_comm _ _ h.nextIndex_ne, List.set_set]
  have hlt : nextIndex s.cfg s.tail < ((s.rob.set s.tail e).set (nextIndex s.cfg s.tail) y.entry).length :=
    h.nextIndex_lt.trans_eq (List.length_set.symm.trans List.length_set.symm)
  rw [hset, foldl_mirrorInto_of_one fun i => h.mirrors_pair hj hwaits hstore, List.set_set,
    List.getD_eq_getElem _ _ hlt, List.getElem_set_self]

end Fits

end Sys2Proof.Machine
end

section
/-! PROOF. An instruction with a destination and a STORE of its result, issued in an idle machine one after the other
(R213): the two ways to the cycle in which the STORE has its data, and the run from there. -/

namespace Sys2Proof.Machine

/-- The first instruction with its result written, its execution having ended in cycle `n`. -/
def State.firstWritten (s : State) (k : Kind) (rd : RegIdx) (q : Station) (n : Nat) : Flight :=
  s.writtenFlight k q (issuedEntry k (some rd) s.pc) n

/-- The idle machine after the first instruction, as the STORE sees it. -/
def State.afterFirst (s : State) (k : Kind) (rd : RegIdx) (q : Station) (n : Nat) : State :=
  s.loaded rd (s.loneResult k q).result { (s.firstWritten k rd q n).stamps with commit := some (n + 2) }

/-- The station of a STORE of `rd` with its registers known. -/
def State.storeOf (s : State) (rd : RegIdx) (offset : Int) (base : RegIdx) : Station :=
  s.storeStation ⟨s.reg rd, none⟩ offset ⟨s.reg base, none⟩

/-- In the cycle after the execution of the first instruction, once Issue is over: its result is written, and the STORE
has it (R160, R161, R126). -/
def State.handedOver (s : State) (k : Kind) (rd : RegIdx) (id : StationId) (q : Station) (n : Nat) (offset : Int)
    (base : RegIdx) (id' : StationId) : State :=
  s.pair rd id (s.firstWritten k rd q n) id' ((s.afterFirst k rd q n).storeFlight
    ((s.afterFirst k rd q n).storeOf rd offset base) (n + 1) (s.loneResult k q).events)

/-- The operand of register `r` while the first instruction has not written its result. -/
def State.awaited (s : State) (rd r : RegIdx) : Operand := if r = rd then ⟨0, some s.tail⟩ else ⟨s.reg r, none⟩

/-- The STORE in cycle `cycle`, waiting for the first instruction, whose execution ends in cycle `n`. -/
def State.waitingFlight (s : State) (k : Kind) (rd : RegIdx) (q : Station) (n : Nat) (offset : Int) (base : RegIdx)
    (cycle : Nat) : Flight :=
  (s.afterFirst k rd q n).storeFlight
    ((s.afterFirst k rd q n).storeStation (s.awaited rd rd) offset (s.awaited rd base)) cycle []

variable {s : State} {rd base : RegIdx} {id id' : StationId} {offset : Int} {w : InstrWord} {k : Kind}
  {q : Station} {n l m : Nat} {z : Stamps}

theorem firstWritten_entry (hne : k ≠ .store) : (s.firstWritten k rd q n).entry =
    ({ issuedEntry k (some rd) s.pc with state := .executing } : RobEntry).wrote (s.loneResult k q) :=
  congrArg (·.wrote (s.loneResult k q)) (dispatched_issuedEntry s.pc hne)

/-- What the STORE captured, after the broadcast, is what it finds in the machine after the first instruction. -/
theorem awaited_received (r : RegIdx) : (s.awaited rd r).received s.tail (s.loneResult k q).result =
    ⟨(s.afterFirst k rd q n).reg r, none⟩ := by
  rw [State.afterFirst, reg_loaded]
  unfold State.awaited Operand.received
  split <;> simp

theorem awaited_self : s.awaited rd rd = ⟨0, some s.tail⟩ := if_pos rfl

theorem waiting_qj (cycle : Nat) : (s.waitingFlight k rd q n offset base cycle).station.qj ≠ none :=
  fun heq => Option.some_ne_none s.tail ((congrArg Operand.q awaited_self).symm.trans heq)

theorem reg_afterFirst : (s.afterFirst k rd q n).reg rd = (s.loneResult k q).result := by
  rw [State.afterFirst, reg_loaded, if_pos rfl]

section handover

variable (F : Fits s id id') (I : IdleIssue s k (some rd) id q (issuedEntry k (some rd) s.pc)) 
include F I

/-- Write-Result of the first instruction, for which the STORE waits (R157 to R164). -/
theorem writeResult_pair : writeResult (s.pair rd id (s.queuedFlight k q (issuedEntry k (some rd) s.pc) n) id'
      { s.waitingFlight k rd q n offset base (n + 1) with cdbq := [s.tail] }) =
    .next (s.handedOver k rd id q n offset base id') := by
  let y : Flight := { s.waitingFlight k rd q n offset base (n + 1) with cdbq := [s.tail] }
  let y' := (s.afterFirst k rd q n).storeFlight
    ((s.afterFirst k rd q n).storeOf rd offset base) (n + 1) (s.loneResult k q).events
  let p := s.pair rd id (s.queuedFlight k q (issuedEntry k (some rd) s.pc) n) id' y
  have hentry : p.entry s.tail = (issuedEntry k (some rd) s.pc).dispatched k q := F.entry_pair_tail
  have hwaits : y.station.qj = some s.tail := congrArg Operand.q awaited_self
  have hreceived : y.station.receive s.tail (s.loneResult k q).result = y'.station := by
    change (State.storeStation _ _ _ _).receive _ _ = _
    rw [receive_storeStation, awaited_received, awaited_received]
    rfl
  have hmirrored : { y.entry with value := (s.loneResult k q).result, valueReady := true } = y'.entry := by
    have hbefore : y.entry = issuedEntry .store none (s.pc + 1) :=
      if_neg fun heq => Option.some_ne_none _ (hwaits.symm.trans heq)
    rw [hbefore, ← reg_afterFirst (n := n)]
    rfl
  have hstamp : p.stamp.set s.pc { p.stampOf s.pc with writeResult := some p.cycle } =
      (s.stamp.set s.pc (s.firstWritten k rd q n).stamps).set (s.pc + 1) y'.stamps :=
    congrArg State.stamp (F.pair_setStamp fun t => { t with writeResult := some (n + 1) })
  have hother (i : StationId) (hi : i ≠ id) : (p.station i).destRob ≠ some s.tail := by
    rw [F.station_pair, if_neg hi]
    split
    · exact fun heq => F.nextIndex_ne (Option.some.inj heq)
    · nofun
  have hwrite := writeResult_of_only (u := p) (q := q) rfl I.mem F.station_pair_self I.serves
    (F.idle.tail_lt.trans_eq (List.length_set.symm.trans List.length_set.symm))
    (hentry ▸ dispatched_busy.trans rfl) hother
  rw [State.wroteBack, show compute p.cfg p.mem k q s.pc = s.loneResult k q from rfl, F.receive_pair,
    F.mirror_pair I.knownJ hwaits ⟨rfl, rfl, rfl, rfl⟩, hreceived, hmirrored, hentry, hstamp] at hwrite
  exact hwrite

/-- The cycle in which the waiting STORE gets its data. -/
theorem step_pair_queued : step (s.pair rd id (s.queuedFlight k q (issuedEntry k (some rd) s.pc) n) id'
      { s.waitingFlight k rd q n offset base (n + 1) with cdbq := [s.tail] }) =
    (s.handedOver k rd id q n offset base id').finishCycle := by
  have hquiet := F.quiet_pair (rd := rd) (x := s.queuedFlight k q (issuedEntry k (some rd) s.pc) n)
    (y := { s.waitingFlight k rd q n offset base (n + 1) with cdbq := [s.tail] }) I.destRob dispatched_executing
    (waiting_qj (n + 1))
  exact step_of_phases hquiet.commit_waits (writeResult_pair F I) (issuePhase_of_stalls (.inl F.last.ge))

variable (hw : s.prog[s.pc + 1]? = some w) (hd : decode s.cfg.offw w = .instr (.store rd offset base))
  (hcan : s.canIssue .store id')
include hw hd hcan

/-- With a latency of one cycle the first instruction writes its result before the STORE issues, in the same cycle 
(R126, R134 (a)). -/
theorem step_alone_queued (hne : k ≠ .store) :
    step (s.alone (some rd) id (s.queuedFlight k q (issuedEntry k (some rd) s.pc) s.cycle)) =
      (s.handedOver k rd id q s.cycle offset base id').finishCycle := by
  let x : Flight := { s.firstWritten k rd q s.cycle with cycle := s.cycle + 1 }
  have hentry : x.entry = _ := firstWritten_entry (q := q) (n := s.cycle) hne
  have hforwards : x.entry.forwards = true := by rw [hentry]; rfl
  have hvalue : x.entry.value = (s.loneResult k q).result := rfl
  have hoperand (r : RegIdx) : (s.alone (some rd) id x).operand r = ⟨(s.afterFirst k rd q s.cycle).reg r, none⟩ := by
    rw [F.operand_alone, if_pos hforwards, hvalue, State.afterFirst, reg_loaded]
    split <;> rfl
  have hissue : issuePhase (s.alone (some rd) id x) = .next (s.handedOver k rd id q s.cycle offset base id') :=
    F.issuePhase_alone (x := x) (v := (s.loneResult k q).result)
      (z := { (s.firstWritten k rd q s.cycle).stamps with commit := some (s.cycle + 2) }) hw hd hcan rfl (hoperand rd)
      (hoperand base)
  let y := s.queuedFlight k q (issuedEntry k (some rd) s.pc) s.cycle
  have hexecuting : y.entry.state = .executing := dispatched_executing
  have hcommit : commit (s.alone (some rd) id y).clearEvents = .next (s.alone (some rd) id y) :=
    I.idle.commit_alone_clear (x := y) rfl (by simp [hexecuting])
  exact step_of_phases hcommit (I.writeResult_queued rfl) hissue

/-- While the first instruction executes, the STORE issues and waits (R126). -/
theorem step_alone_counting {left : Int} : step (s.alone (some rd) id
      (s.countingFlight k id q (issuedEntry k (some rd) s.pc) left (s.cycle + 1))) =
    step (s.pair rd id (s.countingFlight k id q (issuedEntry k (some rd) s.pc) left (s.cycle + 1)) id'
      { s.waitingFlight k rd q n offset base (s.cycle + 1) with fu := [⟨id, s.pc, left⟩] }) := by
  let x := s.countingFlight k id q (issuedEntry k (some rd) s.pc) left (s.cycle + 1)
  have hexecuting : x.entry.state = .executing := dispatched_executing
  have hforwards : ¬ x.entry.forwards = true := by simp [forwards_iff, hexecuting]
  have hoperand (r : RegIdx) : (s.alone (some rd) id x).operand r = s.awaited rd r := by
    rw [F.operand_alone, if_neg hforwards, State.awaited]
  have hquiet := F.quiet_pair (rd := rd) (x := x)
    (y := { s.waitingFlight k rd q n offset base (s.cycle + 1) with fu := [⟨id, s.pc, left⟩] }) I.destRob hexecuting
    (waiting_qj (s.cycle + 1))
  have hissue := F.issuePhase_alone (x := x) (v := (s.loneResult k q).result)
    (z := { (s.firstWritten k rd q n).stamps with commit := some (n + 2) }) hw hd hcan rfl (hoperand rd) (hoperand base)
  have hcommit : commit (s.alone (some rd) id x).clearEvents = .next (s.alone (some rd) id x) :=
    I.idle.commit_alone_clear (x := x) rfl (by simp [hexecuting])
  rw [hquiet.step_eq rfl rfl, step_of_phases hcommit (writeResult_of_nil rfl) hissue]
  exact (finishCycle_of_started (executeStart_of_none_ready hquiet.start) :)

/-- The latency of the first instruction, up to the cycle in which the STORE has its data (R213). -/
theorem run_to_handedOver (hne : k ≠ .store) (hlat : latency s.cfg k = (l + 1 : Nat)) :
    ∃ u, (∀ m, Host.Core.run core (m + (l + 1)) s = Host.Core.run core m u) ∧
      step u = (s.handedOver k rd id q (s.cycle + l) offset base id').finishCycle := by
  let e := issuedEntry k (some rd) s.pc
  cases l with
  | zero =>
    have hstep := I.step_first_finishes hlat
    exact ⟨_, fun m => run_succ_of_step (M := core) hstep, step_alone_queued F I hw hd hcan hne⟩
  | succ l =>
    let x := s.countingFlight k id q e (l + 1 : Nat) (s.cycle + 1)
    let y := { s.waitingFlight k rd q (s.cycle + (l + 1)) offset base (s.cycle + 1) with
      fu := [FuRecord.mk id s.pc (l + 1 : Nat)] }
    have hquiet : (s.pair rd id x id' y).Quiet := F.quiet_pair I.destRob dispatched_executing (waiting_qj (s.cycle + 1))
    have hcomplete : (s.pair rd id x id' y).completedAt s.pc s.tail (s.cycle + 1 + l) =
        s.pair rd id (s.queuedFlight k q e (s.cycle + (l + 1))) id'
          { s.waitingFlight k rd q (s.cycle + (l + 1)) offset base (s.cycle + (l + 1) + 1) with cdbq := [s.tail] } := by
      rw [State.completedAt, F.pair_setStamp, show s.cycle + 1 + l = s.cycle + (l + 1) by omega]
      rfl
    refine ⟨_, fun m => ?_, step_pair_queued F I (offset := offset) (base := base)⟩
    calc Host.Core.run core (m + (l + 1 + 1)) s
      _ = Host.Core.run core (m + (l + 1)) (s.alone (some rd) id x) :=
        run_succ_of_step (M := core) (I.step_first_counts hlat)
      _ = Host.Core.run core (m + (l + 1)) (s.pair rd id x id' y) :=
        run_succ_congr (M := core) (step_alone_counting F I hw hd hcan)
      _ = Host.Core.run core m ((s.pair rd id x id' y).completedAt s.pc s.tail (s.cycle + 1 + l)) :=
        hquiet.run_completes rfl rfl rfl ((congrArg Station.destRob F.station_pair_self).trans I.destRob) m
      _ = _ := congrArg (Host.Core.run core m) hcomplete

end handover

end Sys2Proof.Machine
end

section
/-! PROOF. From the broadcast on (R213): the STORE executes while the instruction before it commits, and is then alone
over the idle machine that this leaves. -/

namespace Sys2Proof.Machine

variable {s u : State} {rd base : RegIdx} {id id' : StationId} {offset : Int} {w : InstrWord} {k : Kind}
  {q : Station} {n l m : Nat} {y : Flight}

/-- A STORE of `rd` alone over the idle machine `s`, with `left` cycles to count. -/
def State.storeCounting (s : State) (rd : RegIdx) (offset : Int) (base : RegIdx) (id : StationId) (left : Int)
    (n : Nat) : Flight :=
  s.countingFlight .store id (s.storeOf rd offset base) (s.storeEntry (s.storeOf rd offset base)) left n

/-- The same after its execution has ended in cycle `n`. -/
def State.storeQueued (s : State) (rd : RegIdx) (offset : Int) (base : RegIdx) (n : Nat) : Flight :=
  s.queuedFlight .store (s.storeOf rd offset base) (s.storeEntry (s.storeOf rd offset base)) n

/-- Its Issue. -/
def LoneStore (s : State) (rd : RegIdx) (offset : Int) (base : RegIdx) (id : StationId) : Prop :=
  LoneIssue s .store none id (s.storeOf rd offset base) (s.storeEntry (s.storeOf rd offset base))

/-- The STORE, when the first instruction has ended its execution in cycle `n`. -/
theorem Fits.store_issues (F : Fits s id id') (hw : s.prog[s.pc + 1]? = some w)
    (hd : decode s.cfg.offw w = .instr (.store rd offset base)) (hcan : s.canIssue .store id') :
    LoneStore (s.afterFirst k rd q n) rd offset base id' := by
  obtain ⟨-, havailable, hpick⟩ := hcan
  have hcan' : (s.afterFirst k rd q n).canIssue .store id' :=
    ⟨F.last.le, havailable, (pickStation_congr (s := s) rfl rfl).trans hpick⟩
  exact ((F.idle.loaded F.more _ _ _).store_issues hw hd hcan').lone F.last

theorem dispatched_not_written {e : RobEntry} : (e.dispatched k q).state ≠ .wroteResult := by
  simp [dispatched_executing]

section handedOver

variable (F : Fits s id id') (J : LoneStore (s.afterFirst k rd q n) rd offset base id')
include F J

/-- The STORE is dispatched in the cycle of the broadcast (R134 (c)). -/
theorem finishCycle_handedOver : (s.handedOver k rd id q n offset base id').finishCycle =
    andThen (executeAdvance (s.pair rd id (s.firstWritten k rd q n) id'
      { (s.afterFirst k rd q n).storeCounting rd offset base id' (latency s.cfg .store) (n + 1) with
        events := (s.loneResult k q).events })) fun t => .next t.tick := by
  obtain ⟨hidle, -, hmem, -, hissued, hbusy, hop, hindex, hdest, hj, hk⟩ := J
  have hscan : id' ∈ s.cfg.scanOrder := (legal_scanOrder_perm F.idle.shape.legal).mem_iff.mpr hmem
  have hstart := executeStart_of_only (u := s.handedOver k rd id q n offset base id') (id := id')
    hscan F.station_pair_store ⟨hbusy, hop, hindex, hdest⟩ hj hk
    (F.nextIndex_lt.trans_eq (List.length_set.symm.trans List.length_set.symm)) F.entry_pair_store hissued
    fun i hi => by
      rw [Bool.eq_false_iff, Ne, dispatchable_iff]
      rintro ⟨hbusy, -⟩
      have hother : (s.handedOver k rd id q n offset base id').station i = {} := by
        rw [State.handedOver, F.station_pair, if_neg hi]
        split <;> rfl
      simp [hother] at hbusy
  rw [finishCycle_of_started hstart]
  refine congrArg (fun v => andThen (executeAdvance v) fun t => .next t.tick) ?_
  exact alone_setEntry (s := s.alone (some rd) id (s.firstWritten k rd q n)) (dest := none) (id := id') (x := {
    (s.afterFirst k rd q n).storeFlight ((s.afterFirst k rd q n).storeOf rd offset base) (n + 1)
      (s.loneResult k q).events with fu := [⟨id', s.pc + 1, latency s.cfg .store⟩] }) _

omit J in
/-- In the cycle after, the first instruction commits, and the rest of the cycle is that of the STORE alone. -/
theorem step_pair_written (hne : k ≠ .store) (hcycle : y.cycle = n + 2) (hwaits : y.entry.state ≠ .wroteResult) :
    step (s.pair rd id (s.firstWritten k rd q n) id' y) =
      step ((s.afterFirst k rd q n).alone none id' { y with events := [] }) := by
  have hentry := firstWritten_entry (s := s) (rd := rd) (q := q) (n := n) hne
  have hidle : Idle (s.afterFirst k rd q n) := F.idle.loaded F.more _ _ _
  have hafter : s.loaded rd (s.firstWritten k rd q n).entry.value
      { (s.firstWritten k rd q n).stamps with commit := some y.cycle } = s.afterFirst k rd q n := by
    rw [State.afterFirst, hcycle]
    rfl
  have hcommit := F.commit_pair (x := s.firstWritten k rd q n) (y := { y with events := [] }) rfl
    (congrArg RobEntry.busy hentry) (congrArg RobEntry.state hentry) (congrArg RobEntry.instructionIndex hentry)
    (congrArg RobEntry.kind hentry) hne (congrArg RobEntry.destinationRegister hentry)
  have hstays := hidle.commit_alone_clear (dest := none) (id := id') (x := { y with events := [] }) rfl hwaits
  rw [hafter] at hcommit
  exact step_congr_of_commit (Eq.trans hcommit hstays.symm)

/-- With a latency of one cycle the STORE ends its execution in the cycle of the broadcast. -/
theorem step_handedOver_finishes (hu : step u = (s.handedOver k rd id q n offset base id').finishCycle)
    (hlat : latency s.cfg .store = (1 : Nat)) :
    step u = .next (s.pair rd id (s.firstWritten k rd q n) id'
      { (s.afterFirst k rd q n).storeQueued rd offset base (n + 1) with events := (s.loneResult k q).events }) := by
  let x := s.firstWritten k rd q n
  let y := { (s.afterFirst k rd q n).storeCounting rd offset base id' (1 : Nat) (n + 1) with
    events := (s.loneResult k q).events }
  have hdest : ((s.pair rd id x id' y).station id').destRob = some (nextIndex s.cfg s.tail) :=
    congrArg Station.destRob F.station_pair_store
  have hstamp := F.pair_setStamp_store (rd := rd) (x := x) (y := { y with fu := [] })
    fun z => { z with executionComplete := some (n + 1) }
  rw [hu, finishCycle_handedOver F J, hlat, executeAdvance_of_one_finishing rfl (Int.le_refl 1) hdest]
  exact congrArg (fun t => Host.Outcome.next (t.setCdbq [nextIndex s.cfg s.tail]).tick) hstamp

/-- With a longer latency it counts one cycle in the cycle of the broadcast. -/
theorem step_handedOver_counts (hu : step u = (s.handedOver k rd id q n offset base id').finishCycle)
    (hlat : latency s.cfg .store = (l + 2 : Nat)) :
    step u = .next (s.pair rd id (s.firstWritten k rd q n) id'
      { (s.afterFirst k rd q n).storeCounting rd offset base id' (l + 1 : Nat) (n + 2) with
        events := (s.loneResult k q).events }) := by
  have hleft : ((l + 2 : Nat) : Int) - 1 = (l + 1 : Nat) := by omega
  rw [hu, finishCycle_handedOver F J, hlat, executeAdvance_of_one_counting rfl (by simp only; omega), andThen_of_next,
    FuRecord.decrement, hleft]
  rfl

/-- The latency of the STORE, from the cycle of the broadcast. -/
theorem run_from_handedOver (hne : k ≠ .store)
    (hu : step u = (s.handedOver k rd id q n offset base id').finishCycle)
    (hlat : latency s.cfg .store = (l + 1 : Nat)) :
    Host.Core.run core (m + 1 + (l + 1)) u = Host.Core.run core (m + 1) ((s.afterFirst k rd q n).alone none id'
      ((s.afterFirst k rd q n).storeQueued rd offset base (n + 1 + l))) := by
  cases l with
  | zero =>
    exact (run_succ_of_step (M := core) (step_handedOver_finishes F J hu hlat)).trans
      (run_succ_congr (M := core) (step_pair_written F hne rfl dispatched_not_written))
  | succ l =>
    let y := { (s.afterFirst k rd q n).storeCounting rd offset base id' (l + 1 : Nat) (n + 2) with
      events := (s.loneResult k q).events }
    calc Host.Core.run core (m + 1 + (l + 1 + 1)) u
      _ = Host.Core.run core (m + 1 + (l + 1)) (s.pair rd id (s.firstWritten k rd q n) id' y) :=
        run_succ_of_step (M := core) (step_handedOver_counts F J hu hlat)
      _ = Host.Core.run core (m + 1 + (l + 1)) ((s.afterFirst k rd q n).alone none id' { y with events := [] }) :=
        run_succ_congr (M := core) (step_pair_written F hne (y := y) rfl dispatched_not_written)
      _ = Host.Core.run core (m + 1) ((s.afterFirst k rd q n).alone none id'
            ((s.afterFirst k rd q n).storeQueued rd offset base (n + 2 + l))) := J.run_to_queued (m + 1) l (n + 2)
      _ = _ := by rw [show n + 2 + l = n + 1 + (l + 1) by omega]

end handedOver

end Sys2Proof.Machine
end

section
/-! PROOF. A LOAD and a STORE of the loaded value copy a word (R213): the run with a ROB of one entry, where the STORE
issues when the instruction before it commits, the run with a larger ROB, and what both leave. -/

namespace Sys2Proof.Machine

variable {s v : State} {rd base : RegIdx} {id id' : StationId} {offset : Int} {w : InstrWord} {k : Kind}
  {q : Station} {n l : Nat}

theorem Idle.landed (h : Idle s) (hmore : s.pc < s.prog.length) (x : Flight) (regs : Vector Int 32) (mem : Memory)
    (events : List Diagnostic) : Idle ((s.landed x).withArch regs mem events) :=
  let hloaded := h.loaded hmore 0 0 { x.stamps with commit := some x.cycle }
  { hloaded with shape := { hloaded.shape with } }

/-- The idle machine after a STORE of `rd` whose execution has ended in cycle `n`. -/
def State.storeDone (s : State) (rd : RegIdx) (offset : Int) (base : RegIdx) (n : Nat) : State :=
  ((s.landed (s.writtenFlight .store (s.storeOf rd offset base) (s.storeEntry (s.storeOf rd offset base)) n)).withArch
    s.regs (memWrite s.cfg s.mem (wrap s.cfg.xlen (offset + s.reg base)) (s.reg rd))
    (storeEvents s.cfg s.pc (wrap s.cfg.xlen (offset + s.reg base)))).tick

theorem LoneStore.step_written (J : LoneStore s rd offset base id) : step (s.alone none id
      (s.writtenFlight .store (s.storeOf rd offset base) (s.storeEntry (s.storeOf rd offset base)) n)) =
    .next (s.storeDone rd offset base n) := by
  rw [State.storeDone, ← effectiveAddress_storeStation (s := s) ⟨s.reg rd, none⟩]
  exact LoneIssue.store_lands J

/-- An idle machine in which the first instruction has had its effect, and only the STORE is left. -/
structure FirstDone (s : State) (rd : RegIdx) (result : Int) (v : State) : Prop where
  idle : Idle v
  last : v.pc + 1 = v.prog.length
  cfg : v.cfg = s.cfg
  mem : v.mem = s.mem
  regs : v.regs = s.regs.set rd result

/-! A ROB of one entry: the instruction alone in the tables (R120 (2)) -/

section oneEntry

variable {dest : Option RegIdx} {e : RobEntry} (I : IdleIssue s k dest id q e)
  (hstalls : ∀ x, (s.alone dest id x).IssueStalls)
include I

theorem IdleIssue.ready_alone {x : Flight} (hstarted : x.entry.state ≠ .issued) (i : StationId) :
    (s.alone dest id x).dispatchable ((s.alone dest id x).station i) = false := by
  rw [Bool.eq_false_iff, Ne, dispatchable_iff]
  rintro ⟨-, -, -, b, -, hissued⟩
  exact I.idle.none_issued_alone hstarted b hissued

include hstalls

theorem IdleIssue.run_to_queued (hlat : latency s.cfg k = (l + 1 : Nat)) (m : Nat) :
    Host.Core.run core (m + (l + 1)) s =
      Host.Core.run core m (s.alone dest id (s.queuedFlight k q e (s.cycle + l))) := by
  let x := s.countingFlight k id q e (latency s.cfg k) s.cycle
  have hquiet : (s.alone dest id x).Quiet := {
    head := by
      rw [I.idle.entry_alone_head]
      exact dispatched_not_written
    issue := hstalls x
    start := I.ready_alone countingFlight_not_issued }
  have hcomplete : (s.alone dest id x).completedAt s.pc s.tail (s.cycle + l) =
      s.alone dest id (s.queuedFlight k q e (s.cycle + l)) := by
    rw [State.completedAt, I.idle.alone_setStamp I.more]
    rfl
  have hfu : (s.alone dest id x).fu = [⟨id, s.pc, (l + 1 : Nat)⟩] := by
    rw [← hlat]
    rfl
  calc Host.Core.run core (m + (l + 1)) s
    _ = Host.Core.run core (m + (l + 1)) (s.alone dest id x) :=
      run_succ_congr (M := core) (I.step_first.trans (hquiet.step_eq rfl rfl).symm)
    _ = Host.Core.run core m ((s.alone dest id x).completedAt s.pc s.tail (s.cycle + l)) :=
      hquiet.run_completes rfl rfl hfu ((congrArg Station.destRob (I.idle.station_alone_self I.mem)).trans I.destRob) m
    _ = _ := congrArg (Host.Core.run core m) hcomplete

theorem IdleIssue.step_queued (hbusy : e.busy = true) : step (s.alone dest id (s.queuedFlight k q e n)) =
    .next (s.alone dest id (s.writtenFlight k q e n)) := by
  let x : Flight := { s.writtenFlight k q e n with cycle := n + 1 }
  have hcommit := I.idle.commit_alone_clear (dest := dest) (id := id) (x := s.queuedFlight k q e n) rfl
    dispatched_not_written
  have hready : executeStart (s.alone dest id x) = .next (s.alone dest id x) :=
    executeStart_of_none_ready (I.ready_alone nofun)
  have hadvance : executeAdvance (s.alone dest id x) = .next (s.alone dest id x) := executeAdvance_of_nil rfl
  rw [step_of_phases hcommit (I.writeResult_queued hbusy) (issuePhase_of_stalls (hstalls x)),
    finishCycle_of_started hready, hadvance, andThen_of_next]
  rfl

end oneEntry

/-! The two runs -/

/-- With room for both in the ROB. -/
theorem run_of_room (F : Fits s id id') (I : IdleIssue s k (some rd) id q (issuedEntry k (some rd) s.pc))
    (hw : s.prog[s.pc + 1]? = some w) (hd : decode s.cfg.offw w = .instr (.store rd offset base))
    (hcan : s.canIssue .store id') (hne : k ≠ .store) :
    ∃ v n, FirstDone s rd (s.loneResult k q).result v ∧ Host.Core.run core
      ((latency s.cfg k).toNat + (latency s.cfg .store).toNat + 2) s = .next (v.storeDone rd offset base n) := by
  obtain ⟨l, hl⟩ := legal_latency_eq_succ F.idle.shape.legal k
  obtain ⟨l', hl'⟩ := legal_latency_eq_succ F.idle.shape.legal .store
  obtain ⟨u, hrun, hu⟩ := run_to_handedOver F I hw hd hcan hne hl
  have J := F.store_issues (k := k) (q := q) (n := s.cycle + l) hw hd hcan
  refine ⟨s.afterFirst k rd q (s.cycle + l), s.cycle + l + 1 + l', ⟨J.idle, J.last, rfl, rfl, rfl⟩, ?_⟩
  rw [hl, hl', Int.toNat_natCast, Int.toNat_natCast, show l + 1 + (l' + 1) + 2 = 1 + 1 + (l' + 1) + (l + 1) by omega,
    hrun, run_from_handedOver F J hne hu hl']
  exact (run_succ_of_step (M := core) J.step_queued).trans (run_succ_of_step (M := core) J.step_written)

/-- With a ROB of one entry. -/
theorem run_of_one_entry (I : IdleIssue s k (some rd) id q (issuedEntry k (some rd) s.pc))
    (hlast : s.pc + 2 = s.prog.length) (hw : s.prog[s.pc + 1]? = some w)
    (hd : decode s.cfg.offw w = .instr (.store rd offset base)) (hone : s.cfg.robSize = 1)
    (hne : k ≠ .store) :
    ∃ v n, FirstDone s rd (s.loneResult k q).result v ∧ Host.Core.run core
      ((latency s.cfg k).toNat + (latency s.cfg .store).toNat + 3) s = .next (v.storeDone rd offset base n) := by
  obtain ⟨l, hl⟩ := legal_latency_eq_succ I.idle.shape.legal k
  obtain ⟨l', hl'⟩ := legal_latency_eq_succ I.idle.shape.legal .store
  let x : Flight := { s.firstWritten k rd q (s.cycle + l) with events := [] }
  let v := (s.landed x).withArch (s.regs.set rd (s.loneResult k q).result) s.mem []
  have hv : Idle v := I.idle.landed I.more x _ _ _
  obtain ⟨id', hcan⟩ := hv.canIssue (Nat.lt_of_succ_le hlast.le) .store
  have J : LoneStore v rd offset base id' := (hv.store_issues hw hd hcan).lone hlast
  have hstalls (y : Flight) : (s.alone (some rd) id y).IssueStalls := by
    refine .inr ⟨?_, w, _, hw, hd⟩
    change s.entriesAvailable - 1 = 0
    rw [I.idle.available, hone]
  have hentry : x.entry = _ := firstWritten_entry (q := q) (n := s.cycle + l) hne
  have hcommit : commit (s.alone (some rd) id (s.firstWritten k rd q (s.cycle + l))).clearEvents = .next v :=
    I.idle.commit_alone_register (k := k) (x := x) ⟨rfl, rfl, rfl⟩ I.more (congrArg RobEntry.busy hentry)
      (congrArg RobEntry.state hentry) (congrArg RobEntry.instructionIndex hentry) (congrArg RobEntry.kind hentry) hne
      (congrArg RobEntry.destinationRegister hentry)
  have hstays : commit v.clearEvents = .next v := commitWaitsForHead _ (.inl hv.available.ge)
  refine ⟨v, v.cycle + l', ⟨hv, hlast, rfl, rfl, rfl⟩, ?_⟩
  rw [hl, hl', Int.toNat_natCast, Int.toNat_natCast,
    show l + 1 + (l' + 1) + 3 = 1 + 1 + (l' + 1) + 1 + (l + 1) by omega,
    I.run_to_queued hstalls hl, run_succ_of_step (M := core) (I.step_queued hstalls rfl)]
  refine (run_succ_congr (M := core) (step_congr_of_commit (hcommit.trans hstays.symm))).trans ?_
  exact (J.run_to_written hl' 1).trans (run_succ_of_step (M := core) J.step_written)

/-! What both leave -/

/-- The STORE has copied the first instruction's result, and nothing else has changed since. -/
theorem FirstDone.copies {result : Int} (h : FirstDone s rd result v) (hwf : Memory.wf s.cfg s.mem = true) {b : Int}
    (hb : wrap s.cfg.xlen (offset + if base = rd then result else s.reg base) = b)
    (hvalid : addressValid s.cfg b = true) (n : Nat) :
    Idle (v.storeDone rd offset base n) ∧
      Memory.read (v.storeDone rd offset base n).cfg (v.storeDone rd offset base n).mem b.toNat = result ∧
      (∀ x : Nat, b ≠ (x : Int) → Memory.read (v.storeDone rd offset base n).cfg (v.storeDone rd offset base n).mem x =
        Memory.read s.cfg s.mem x) ∧
      (v.storeDone rd offset base n).reg rd = result ∧
      (∀ r, r ≠ rd → (v.storeDone rd offset base n).reg r = s.reg r) := by
  have hreg (r : RegIdx) : v.reg r = if r = rd then result else s.reg r := by
    rw [State.reg, h.regs]
    exact reg_loaded (s := s) (z := {})
  have hmem : (v.storeDone rd offset base n).mem = memWrite s.cfg s.mem b result := by
    change memWrite v.cfg v.mem (wrap v.cfg.xlen (offset + v.reg base)) (v.reg rd) = _
    rw [h.cfg, h.mem, hreg, hreg, if_pos rfl, hb]
  have hcfg : (v.storeDone rd offset base n).cfg = s.cfg := h.cfg
  have hidle := h.idle.landed (Nat.lt_of_succ_le h.last.le)
    (v.writtenFlight .store (v.storeOf rd offset base) (v.storeEntry (v.storeOf rd offset base)) n)
    v.regs (memWrite v.cfg v.mem (wrap v.cfg.xlen (offset + v.reg base)) (v.reg rd))
    (storeEvents v.cfg v.pc (wrap v.cfg.xlen (offset + v.reg base)))
  rw [hcfg, hmem]
  refine ⟨{ hidle with shape := { hidle.shape with } }, ?_, fun x hne => read_memWrite_other _ hne,
    (hreg rd).trans (if_pos rfl), fun r hne => (hreg r).trans (if_neg hne)⟩
  rw [← memRead_of_valid hvalid]
  exact memRead_memWrite_same hwf hvalid _

/-- Settles O49: with either ROB the run ends with the STORE of the loaded value done over the machine that the LOAD
leaves. -/
theorem loadThenStoreCopiesWord : Obligations.LoadThenStoreCopiesWord := by
  intro s w w' rd base base' offset offset' h hwf hw hw' hlast hd hd' a loaded b ha ha' hb hb'
  obtain ⟨id, hcan⟩ := h.canIssue (g := .load) (by omega)
  have I := h.load_issues hw hd hcan
  have hresult : (s.loneResult .load (s.loadStation offset ⟨s.reg base, none⟩)).result = loaded := by
    rw [loneResult_load]
    exact memRead_of_valid (addressValid_iff.mpr ⟨ha, ha'⟩)
  have hruns : ∃ v n, FirstDone s rd loaded v ∧ Host.Core.run core
      (s.cfg.latLoad.toNat + s.cfg.latStore.toNat + if s.cfg.robSize = 1 then 3 else 2) s =
        .next (v.storeDone rd offset' base' n) := by
    rw [← hresult]
    split
    · next hone => exact run_of_one_entry I hlast hw' hd' hone nofun
    · next hmany =>
      obtain ⟨id', hcan'⟩ := h.canIssue (g := .store) (by omega)
      have hroom : 1 < s.cfg.robSize := by
        have := h.shape.robSize_pos
        omega
      have hfits : Fits s id id' := ⟨h, hlast, hroom, I.mem, I.group ▸ nofun,
        mem_of_stationExists h.shape hcan'.station_exists, hcan'.group⟩
      exact run_of_room hfits I hw' hd' hcan' nofun
  obtain ⟨v, n, hv, hrun⟩ := hruns
  exact ⟨_, hrun, hv.copies hwf rfl (addressValid_iff.mpr ⟨hb, hb'⟩) n⟩

end Sys2Proof.Machine
end

section
/-! PROOF. The events of a step (R239): Commit raises at most one StoreAddrRange, Write-Result at most one DivByZero or
LoadAddrRange, and no later phase raises any unless the word at `pc` is reserved. -/

namespace Sys2Proof.Machine

variable {s t : State}

/-- What Commit can raise (R181, R233). -/
def CommitEvents (l : List Diagnostic) : Prop :=
  l.length ≤ 1 ∧ ∀ d ∈ l, ∃ i address, d = .storeAddrRange i address

/-- What Write-Result can raise (R231, R232). -/
def WriteEvents (l : List Diagnostic) : Prop :=
  l.length ≤ 1 ∧ ∀ d ∈ l, (∃ i, d = .divByZero i) ∨ ∃ i address, d = .loadAddrRange i address

theorem commitEvents_nil : CommitEvents [] := ⟨Nat.zero_le _, nofun⟩

theorem writeEvents_nil : WriteEvents [] := ⟨Nat.zero_le _, nofun⟩

theorem storeEvents_commitEvents (c : Config) (i : Nat) (address : Int) : CommitEvents (storeEvents c i address) := by
  unfold storeEvents
  split
  · exact commitEvents_nil
  · exact ⟨Nat.le_refl _, fun d hd => ⟨i, address, List.mem_singleton.mp hd⟩⟩

theorem divEvents_writeEvents (i : Nat) (divisor : Int) : WriteEvents (divEvents i divisor) := by
  unfold divEvents
  split
  · exact ⟨Nat.le_refl _, fun d hd => .inl ⟨i, List.mem_singleton.mp hd⟩⟩
  · exact writeEvents_nil

theorem loadEvents_writeEvents (c : Config) (i : Nat) (address : Int) : WriteEvents (loadEvents c i address) := by
  unfold loadEvents
  split
  · exact writeEvents_nil
  · exact ⟨Nat.le_refl _, fun d hd => .inr ⟨i, address, List.mem_singleton.mp hd⟩⟩

/-- Only a DIV and a LOAD raise an event at Write-Result. -/
theorem compute_writeEvents (c : Config) (m : Memory) (k : Kind) (q : Station) (i : Nat) :
    WriteEvents (compute c m k q i).events := by
  cases k with
  | div => exact divEvents_writeEvents i q.vk
  | load => exact loadEvents_writeEvents c i (effectiveAddress c q)
  | add | sub | mul | store => exact writeEvents_nil

theorem commit_diagOut (h : commit s = .next t) : ∃ l, CommitEvents l ∧ t.diagOut = s.diagOut ++ l := by
  obtain ⟨-, rfl⟩ | ⟨-, i, -, ⟨-, rfl⟩ | ⟨-, -, r, -, rfl⟩⟩ := commit_cases h
  · exact ⟨[], commitEvents_nil, (List.append_nil _).symm⟩
  · exact ⟨_, storeEvents_commitEvents s.cfg i (s.entry s.head).address, rfl⟩
  · rw [State.commitRegister, unrename_eq]
    exact ⟨[], commitEvents_nil, (List.append_nil _).symm⟩

theorem writeResult_diagOut (h : writeResult s = .next t) : ∃ l, WriteEvents l ∧ t.diagOut = s.diagOut ++ l := by
  obtain ⟨-, rfl⟩ | ⟨b, rest, id, k, i, -, -, -, -, rfl⟩ := writeResult_cases h
  · exact ⟨[], writeEvents_nil, (List.append_nil _).symm⟩
  · obtain ⟨pool, rob, hframe⟩ := writeBack_frame (s.setCdbq rest) b id k i
    rw [hframe]
    exact ⟨_, compute_writeEvents s.cfg s.mem k (s.station id) i, rfl⟩

/-- Issue raises no event but that of a reserved word (R133). -/
theorem issuePhase_diagOut (h : issuePhase s = .next t)
    (hword : ∀ w why, s.fetch = some w → decode s.cfg.offw w ≠ .reserved why) : t.diagOut = s.diagOut := by
  obtain ⟨-, rfl⟩ | ⟨w, i, -, -, he⟩ | ⟨w, why, hw, hd, -⟩ := issuePhase_cases h
  · rfl
  · obtain rfl | ⟨id, q, e, -, rfl⟩ := exec_afterIssue he
    · rfl
    · rfl
  · exact absurd hd (hword w why hw)

/-- Settles O33: the output starts empty, and Commit comes before Write-Result. -/
theorem atMostTwoEventsPerStep : Obligations.AtMostTwoEventsPerStep := by
  intro s t h hword
  obtain ⟨s1, s2, s3, s4, s5, hcommit, hwrite, hissue, hstart, hadvance, rfl⟩ := runCycle_cases h
  obtain ⟨hcfg, hfetch⟩ := fetch_before_issue hcommit hwrite
  obtain ⟨c, ⟨hc, hstore⟩, hcevents⟩ := commit_diagOut hcommit
  obtain ⟨w, ⟨hw, hcomputed⟩, hwevents⟩ := writeResult_diagOut hwrite
  have hwords : ∀ w why, s2.fetch = some w → decode s2.cfg.offw w ≠ .reserved why := by
    rw [hcfg, hfetch]
    exact hword
  refine ⟨c, w, ?_, hc, hw, hstore, hcomputed⟩
  calc s5.diagOut
    _ = s4.diagOut := executeAdvance_diagOut hadvance
    _ = s3.diagOut := executeStart_diagOut hstart
    _ = s2.diagOut := issuePhase_diagOut hissue hwords
    _ = s1.diagOut ++ w := hwevents
    _ = c ++ w := congrArg (· ++ w) hcevents

end Sys2Proof.Machine
end

section
/-! PROOF. Words of the decode vectors (R83, R84, R89). -/

namespace Sys2Proof

/-- Settles O5: each word evaluates. -/
theorem specWordsDecode : Obligations.SpecWordsDecode := by
  unfold Obligations.SpecWordsDecode
  decide

end Sys2Proof
end

section
/-! PROOF. The stamps over a run (R38, R157, R177): a Write-Result stamp, once set, is kept, and a commit stamp that is
set later holds a later cycle. -/

namespace Sys2Proof.Machine

variable {s t u : State} {b n : Nat}

/-! The Write-Result stamps of a step -/

/-- `t` has every Write-Result stamp that `s` has. -/
def State.ResultStampsKept (s t : State) : Prop :=
  ∀ n, ∀ z ∈ (s.stampOf n).writeResult, z ∈ (t.stampOf n).writeResult

theorem State.ResultStampsKept.refl (s : State) : s.ResultStampsKept s := fun _ _ => id

theorem State.ResultStampsKept.trans (h : s.ResultStampsKept t) (h' : t.ResultStampsKept u) : s.ResultStampsKept u :=
  fun n z hz => h' n z (h n z hz)

theorem resultStampsKept_of_stamp (h : t.stamp = s.stamp) : s.ResultStampsKept t :=
  fun n _ hz => by rwa [stampOf_of_stamp h n]

/-- A row whose Write-Result stamp is kept, or was not set. -/
theorem setStamp_resultStampsKept {i : Nat} {f : Stamps → Stamps}
    (hf : ∀ z ∈ (s.stampOf i).writeResult, z ∈ (f (s.stampOf i)).writeResult) :
    s.ResultStampsKept (s.setStamp i f) := by
  intro n z hz
  by_cases hsame : (s.setStamp i f).stampOf n = s.stampOf n
  · rwa [hsame]
  · obtain ⟨rfl, hrow⟩ := stampOf_setStamp_of_changed hsame
    rw [hrow]
    exact hf z hz

theorem commit_resultStampsKept (h : commit s = .next t) : s.ResultStampsKept t := by
  obtain hsame | ⟨i, -, -, hstamp⟩ := commit_stamp h
  · exact resultStampsKept_of_stamp hsame
  · exact State.ResultStampsKept.trans
      (setStamp_resultStampsKept (f := fun x => { x with commit := some s.cycle }) fun _ hz => hz)
      (resultStampsKept_of_stamp hstamp)

/-- The instruction of a queue element is one of the program's, without a Write-Result stamp (R51). -/
theorem MidCycle.queued_unwritten (h : MidCycle s) (hb : b ∈ s.cdbq) :
    (s.entry b).age < s.prog.length ∧ (s.stampOf (s.entry b).age).writeResult = none := by
  have hexecuting := h.tracked.queued_executing hb
  obtain ⟨j, hj, rfl, hlive⟩ := h.queue.place h.shape (RobEntry.Pending.ne_empty (.inr hexecuting))
  obtain ⟨-, -, hwritten, -⟩ := h.stamps.flying j hj
  rw [hlive.age_eq]
  refine ⟨(h.queue.index_lt_pc hj).trans_le h.shape.pcRange, ?_⟩
  simpa [hexecuting] using hwritten

/-- Write-Result stamps the instruction of the popped index (R157). -/
theorem writeResult_stamp (h : MidCycle s) (hw : writeResult s = .next t) : s.cdbq = [] ∧ t = s ∨
    ∃ b, s.cdbq.head? = some b ∧ t.stamp = (s.stampWriteResult (s.entry b).age).stamp := by
  obtain hwait | ⟨b, rest, id, k, i, hq, hloc, -, hi, rfl⟩ := writeResult_cases hw
  · exact .inl hwait
  · obtain ⟨hid, hbusy, hdest⟩ := locateStation_spec hloc
    obtain ⟨j, -, -, -, hlive⟩ := h.station_place hid hbusy hdest hi
    obtain ⟨pool, rob, hframe⟩ := writeBack_frame (s.setCdbq rest) b id k i
    refine .inr ⟨b, congrArg List.head? hq, ?_⟩
    rw [hframe, hlive.age_eq]
    rfl

theorem writeResult_resultStampsKept (h : MidCycle s) (hw : writeResult s = .next t) : s.ResultStampsKept t := by
  obtain ⟨-, rfl⟩ | ⟨b, hb, hstamp⟩ := writeResult_stamp h hw
  · exact .refl _
  · obtain ⟨-, hnone⟩ := h.queued_unwritten (List.mem_of_mem_head? hb)
    exact State.ResultStampsKept.trans
      (setStamp_resultStampsKept (f := fun x => { x with writeResult := some s.cycle }) (by simp [hnone]))
      (resultStampsKept_of_stamp hstamp)

theorem issuePhase_resultStampsKept (h : issuePhase s = .next t) : s.ResultStampsKept t := by
  obtain ⟨-, rfl⟩ | ⟨w, i, -, -, he⟩ | ⟨w, why, -, -, rfl⟩ := issuePhase_cases h
  · exact .refl _
  · obtain rfl | ⟨id, q, e, -, rfl⟩ := exec_afterIssue he
    · exact .refl _
    · exact setStamp_resultStampsKept (s := s) (f := fun x => { x with issue := some s.cycle }) fun _ hz => hz
  · exact .refl _

theorem executeStart_stamp (h : executeStart s = .next t) : t.stamp = s.stamp := by
  refine forEach_keeps (P := fun u => u.stamp = s.stamp) (fun id _ u v hu hv => ?_) rfl h
  obtain ⟨-, rfl⟩ | ⟨-, b, k, i, -, -, -, rfl⟩ := dispatchStation_cases hv
  · exact hu
  · exact hu

theorem executeAdvance_resultStampsKept (h : executeAdvance s = .next t) : s.ResultStampsKept t := by
  have h : forEach completeRecord _ (s.setFu _) = .next t := h
  refine forEach_keeps (P := s.ResultStampsKept) (fun f _ u v hu hv => ?complete) ?start h
  case complete =>
    obtain ⟨b, -, rfl⟩ := completeRecord_cases hv
    exact hu.trans (setStamp_resultStampsKept (s := u)
      (f := fun x => { x with executionComplete := some u.cycle }) fun _ hz => hz)
  case start => exact resultStampsKept_of_stamp rfl

/-- After Write-Result no phase takes a Write-Result stamp away. -/
theorem CyclePhases.resultStampsKept {s1 s2 s3 s4 s5 : State} (h : CyclePhases s s1 s2 s3 s4 s5) :
    s2.ResultStampsKept s5 :=
  ((issuePhase_resultStampsKept h.issue).trans (resultStampsKept_of_stamp (executeStart_stamp h.start))).trans
    (executeAdvance_resultStampsKept h.advance)

theorem PipelineInvariant.step_resultStampsKept (h : PipelineInvariant s) (ht : step s = .next t) :
    s.ResultStampsKept t := by
  obtain ⟨s1, s2, s3, s4, s5, hcycle, rfl⟩ := h.cyclePhases ht
  have hcommit : s.ResultStampsKept s1 := commit_resultStampsKept (s := s.clearEvents) hcycle.commit
  exact (hcommit.trans (writeResult_resultStampsKept hcycle.mid1 hcycle.write)).trans hcycle.resultStampsKept

/-- The instruction at the front of the queue gets the step's cycle as its Write-Result stamp (R155, R157). -/
theorem PipelineInvariant.step_stamps_front (h : PipelineInvariant s) (ht : step s = .next t)
    (hb : b ∈ s.cdbq.head?) : s.cycle ∈ (t.stampOf (s.entry b).age).writeResult := by
  obtain ⟨s1, s2, s3, s4, s5, hcycle, rfl⟩ := h.cyclePhases ht
  have h0 : PipelineInvariant s.clearEvents := h.withArch
  have hpending : (s.clearEvents.entry b).state ≠ .wroteResult := by
    have hexecuting := h0.midCycle.tracked.queued_executing (List.mem_of_mem_head? hb)
    simp [hexecuting]
  have hentry : s1.entry b = s.entry b := (commit_entry_of_not_written h0 hcycle.commit hpending :)
  obtain ⟨-, hcdbq⟩ := commit_keeps_execution hcycle.commit
  have hb1 : b ∈ s1.cdbq.head? := by rwa [hcdbq]
  obtain ⟨hlen, -⟩ := hcycle.mid1.queued_unwritten (List.mem_of_mem_head? hb1)
  refine hcycle.resultStampsKept _ _ ?_
  obtain ⟨hempty, -⟩ | ⟨b', hb', hstamp⟩ := writeResult_stamp hcycle.mid1 hcycle.write
  · simp [hempty] at hb1
  · obtain rfl : b = b' := Option.some.inj (hb1.symm.trans hb')
    rw [stampOf_of_stamp hstamp, ← hentry, State.stampWriteResult,
      stampOf_setStamp_same s1 _ (hcycle.mid1.shape.stampLength ▸ hlen)]
    exact congrArg some (commit_frontKept hcycle.commit).cycle

/-! The history of a run -/

/-- `t` comes after `s` in a run: the Write-Result stamps of `s` are there, and every commit stamp that is not of `s`
holds a cycle from that of `s` on. -/
structure State.Precedes (s t : State) : Prop where
  prog : t.prog = s.prog
  cycle : s.cycle ≤ t.cycle
  results : s.ResultStampsKept t
  commits : ∀ n, ∀ x ∈ (t.stampOf n).commit, x ∈ (s.stampOf n).commit ∨ s.cycle ≤ x

theorem State.Precedes.refl (s : State) : s.Precedes s := ⟨rfl, Nat.le_refl _, .refl s, fun _ _ => .inl⟩

theorem State.Precedes.trans (h : s.Precedes t) (h' : t.Precedes u) : s.Precedes u where
  prog := h'.prog.trans h.prog
  cycle := h.cycle.trans h'.cycle
  results := h.results.trans h'.results
  commits n x hx := by
    obtain hold | hlate := h'.commits n x hx
    · exact h.commits n x hold
    · exact .inr (h.cycle.trans hlate)

theorem PipelineInvariant.step_precedes (h : PipelineInvariant s) (ht : step s = .next t) : s.Precedes t where
  prog := (stepKeepsProgramAndConfiguration s t ht).1
  cycle := (everyStepCountsOneCycle s t ht).symm ▸ Nat.le_succ _
  results := h.step_resultStampsKept ht
  commits n x hx := by
    by_cases hsame : (t.stampOf n).commit = (s.stampOf n).commit
    · exact .inl (hsame ▸ hx)
    · obtain ⟨-, -, hnew⟩ := onlyHeadCommits s t n ht hsame
      exact .inr (Option.some.inj (hnew.symm.trans hx)).le

theorem PipelineInvariant.run_precedes (h : PipelineInvariant s)
    (hrun : Host.Core.run Sys2Proof.core n s = .next t) : s.Precedes t := by
  induction n generalizing s with
  | zero =>
    cases hrun
    exact .refl _
  | succ n ih =>
    obtain ⟨u, hu⟩ := step_completes h
    rw [run_succ_of_step (M := Sys2Proof.core) hu] at hrun
    exact (h.step_precedes hu).trans (ih (runCycle_keeps_invariant h hu) hrun)

end Sys2Proof.Machine
end

section
/-! PROOF. The stale LOAD is the only hazard (R69, R256): the stamps at the end of a run tell which STOREs had committed
when a LOAD read the memory, and a LOAD that found those to its word committed has read what it reads alone. -/

namespace Sys2Proof.Machine

variable {R : Reference} {s t u : State} {c : Config} {x : ArchState} {is : List Instr} {b k n : Nat}

/-- In the stamps of `t`, every STORE to the word of a younger LOAD of `R` has committed by the LOAD's Write-Result. -/
def Reference.StoresCommitFirst (R : Reference) (t : State) : Prop :=
  ∀ k n, k < n → (R.instr k).kind = .store → (R.instr n).kind = .load → addressValid R.cfg (R.target n) = true →
    R.target k = R.target n → ∀ y ∈ (t.stampOf k).commit, ∀ z ∈ (t.stampOf n).writeResult, y ≤ z

/-- A STORE that commits after a step has in the done state a commit stamp above the step's cycle, which is the
Write-Result stamp of the LOAD that the step's Write-Result serves. -/
theorem Reference.StoresCommitFirst.loadFresh (hfirst : R.StoresCommitFirst t) (h : PipelineInvariant s)
    (hu : step s = .next u) (hrest : u.Precedes t) (hdone : t.done = true) (hb : b ∈ s.cdbq.head?) :
    R.LoadFresh u.committed (s.entry b).age := by
  intro hload hvalid k hlow hlt hstore htarget
  have hinv : PipelineInvariant u := runCycle_keeps_invariant h hu
  obtain ⟨hprog, -⟩ := stepKeepsProgramAndConfiguration s u hu
  obtain ⟨hlen, -⟩ := h.midCycle.queued_unwritten (List.mem_of_mem_head? hb)
  have hlenU : k < u.prog.length := hprog ▸ hlt.trans hlen
  have hunset : (u.stampOf k).commit = none := hinv.midCycle.stamps.commit_eq_none hinv.queue hlenU hlow
  obtain ⟨hall, -⟩ := done_iff.mp hdone
  obtain ⟨y, hy⟩ := Option.ne_none_iff_exists'.mp (hall k (hrest.prog ▸ hlenU))
  have hlate : u.cycle ≤ y := by simpa [hunset] using hrest.commits k y hy
  have hresult := hrest.results _ _ (h.step_stamps_front hu hb)
  have hle : y ≤ s.cycle := hfirst k _ hlt hstore hload hvalid htarget y hy s.cycle hresult
  have hcycle : u.cycle = s.cycle + 1 := everyStepCountsOneCycle s u hu
  omega

/-- A run to a done state keeps the agreement, if the stamps there show that no LOAD read past a STORE to its word. -/
theorem Reference.Agrees.run_of_storesCommitFirst (ha : R.Agrees s) (h : PipelineInvariant s)
    (hfirst : R.StoresCommitFirst t) (hdone : t.done = true)
    (hrun : Host.Core.run Sys2Proof.core n s = .next t) : R.Agrees t := by
  induction n generalizing s with
  | zero =>
    cases hrun
    exact ha
  | succ n ih =>
    obtain ⟨u, hu⟩ := step_completes h
    have hinv : PipelineInvariant u := runCycle_keeps_invariant h hu
    rw [run_succ_of_step (M := Sys2Proof.core) hu] at hrun
    have hfresh : ∀ b ∈ s.cdbq.head?, R.LoadFresh u.committed (s.entry b).age :=
      fun b hb => hfirst.loadFresh h hu (hinv.run_precedes hrun) hdone hb
    exact ih (ha.step h hu hfresh) hinv hrun

/-! The reference of a program -/

theorem lt_length_of_load (hload : ((programReference c x is).instr n).kind = .load) : n < is.length := by
  by_contra hge
  simp [programReference, Nat.le_of_not_lt hge, Instr.kind] at hload

/-- The accesses of sequential execution name the LOADs and STOREs of the reference with their targets. -/
theorem programReference_storesCommitFirst (h : StoresCommitBeforeLoads (x.accesses c is) t) :
    (programReference c x is).StoresCommitFirst t := by
  intro k n hkn hstore hload hvalid htarget
  have hn : n < is.length := lt_length_of_load hload
  have hyounger : (x.accesses c is)[n]? = some (some (.load, (programReference c x is).target n)) :=
    (getElem?_accesses_programReference hn).trans (congrArg some (access_of_load hload hvalid))
  rw [← htarget] at hvalid hyounger
  have holder : (x.accesses c is)[k]? = some (some (.store, (programReference c x is).target k)) :=
    (getElem?_accesses_programReference (hkn.trans hn)).trans (congrArg some (access_of_store hstore hvalid))
  exact h k n _ hkn holder hyounger

/-- Settles O55: the run agrees with the reference of its program up to the done state, where every instruction has
committed. -/
theorem staleLoadIsTheOnlyHazard : Obligations.StaleLoadIsTheOnlyHazard := by
  intro c program is n t hc hdecode hrun hdone hstores
  have hinv : PipelineInvariant (State.resetWith c program) := resetWith_invariant hc
  have ha := (resetWith_agrees hdecode).run_of_storesCommitFirst hinv
    (programReference_storesCommitFirst hstores) hdone hrun
  have hlength : t.committed = is.length :=
    calc t.committed
      _ = t.prog.length := committed_of_done hdone
      _ = program.length := congrArg List.length (hinv.run_precedes hrun).prog
      _ = (program.map (decode c.offw)).length := (List.length_map _).symm
      _ = (is.map Decoded.instr).length := congrArg List.length hdecode
      _ = is.length := List.length_map _
  rw [ha.arch, hlength, before_programReference le_rfl, List.take_length]

end Sys2Proof.Machine
end
